-- ==== Sys2Proof/Word.lean ====
section
/-! DEFINITION. The word types of the machine (spec/00_scope.md R6, R7): every value is unsigned. -/

namespace Sys2Proof

/-- A byte: a general register, a memory cell, a timer (R6: `MEM_CELL_BITS`, `TIMER_BITS`). -/
abbrev Byte := BitVec 8

/-- A 16-bit word: PC, I, a stack entry, an instruction word (R6: `PC_BITS`, `I_BITS`, `STACK_ENTRY_BITS`). -/
abbrev Word := BitVec 16

/-- The 12-bit address immediate `nnn` (R91). -/
abbrev Addr12 := BitVec 12

/-- A register number, the field `x` or `y`: every encodable number is a register (R20). -/
abbrev Reg := Fin 16

/-- The 16 flags of the keypad, key k at bit k (R34). -/
abbrev Keys := BitVec 16

/-- The framebuffer: 32 rows (row 0 on top) of 64 one-bit cells, column x at bit x of its row (R33). -/
abbrev Frame := Vector (BitVec 64) 32

/-- `zext_16` of an 8-bit value (R7, R93). -/
abbrev zextByte (b : Byte) : Word := b.setWidth 16

/-- `zext_16` of a 12-bit immediate (R7, R93). -/
abbrev zextAddr (a : Addr12) : Word := a.setWidth 16

end Sys2Proof
end

