-- ==== Sys2Proof/Syntax.lean ====
section
/-! DEFINITION. The 34 instructions (spec/30_encoding.md R95), one constructor per row of spec/opcode_table.json, in
the table's order. -/

namespace Sys2Proof

/-- One instruction with its decoded fields (R91, R93). `x` and `y` are register numbers, `nn` and `nnn` immediates,
`n` a number of sprite rows (a count: `Instr.WellFormed` bounds it). -/
inductive Instr where
  /-- `00E0` clear-screen (R210). -/
  | cls
  /-- `00EE` return (R140). -/
  | ret
  /-- `1NNN` jump (R141). -/
  | jp (nnn : Addr12)
  /-- `2NNN` call (R142). -/
  | call (nnn : Addr12)
  /-- `3XNN` skip-if-equal-immediate (R144). -/
  | seImm (x : Reg) (nn : Byte)
  /-- `4XNN` skip-if-not-equal-immediate (R145). -/
  | sneImm (x : Reg) (nn : Byte)
  /-- `5XY0` skip-if-registers-equal (R146). -/
  | seReg (x y : Reg)
  /-- `6XNN` load-immediate (R158). -/
  | ldImm (x : Reg) (nn : Byte)
  /-- `7XNN` add-immediate (R159). -/
  | addImm (x : Reg) (nn : Byte)
  /-- `8XY0` assign (R161). -/
  | ldReg (x y : Reg)
  /-- `8XY1` bitwise OR (R162). -/
  | orReg (x y : Reg)
  /-- `8XY2` bitwise AND (R163). -/
  | andReg (x y : Reg)
  /-- `8XY3` bitwise XOR (R164). -/
  | xorReg (x y : Reg)
  /-- `8XY4` ADD (R166). -/
  | addReg (x y : Reg)
  /-- `8XY5` SUBTRACT, Vx - Vy (R167). -/
  | sub (x y : Reg)
  /-- `8XY6` right-shift (R168); y is decoded and, with `SHIFT_SOURCE = X`, not used (R103). -/
  | shr (x y : Reg)
  /-- `8XY7` reverse-subtract, Vy - Vx (R169). -/
  | subn (x y : Reg)
  /-- `8XYE` left-shift (R170); y as in `shr`. -/
  | shl (x y : Reg)
  /-- `9XY0` skip-if-registers-not-equal (R147). -/
  | sneReg (x y : Reg)
  /-- `ANNN` set-index (R190). -/
  | ldI (nnn : Addr12)
  /-- `BNNN` jump-with-offset (R143). -/
  | jpV0 (nnn : Addr12)
  /-- `CXNN` random-and (R171). -/
  | rnd (x : Reg) (nn : Byte)
  /-- `DXYN` draw-sprite (R211). -/
  | drw (x y : Reg) (n : Nat)
  /-- `EX9E` skip-if-key-pressed (R230). -/
  | skp (x : Reg)
  /-- `EXA1` skip-if-key-not-pressed (R231). -/
  | sknp (x : Reg)
  /-- `FX07` read-delay-timer (R233). -/
  | ldVxDt (x : Reg)
  /-- `FX0A` await-key (R232). -/
  | ldVxK (x : Reg)
  /-- `FX15` set-delay-timer (R234). -/
  | ldDtVx (x : Reg)
  /-- `FX18` set-sound-timer (R235). -/
  | ldStVx (x : Reg)
  /-- `FX1E` add-to-index (R191). -/
  | addIVx (x : Reg)
  /-- `FX29` index-to-font-glyph (R192). -/
  | ldFVx (x : Reg)
  /-- `FX33` store-BCD (R193). -/
  | ldBVx (x : Reg)
  /-- `FX55` register-dump (R194). -/
  | ldMemVx (x : Reg)
  /-- `FX65` register-load (R195). -/
  | ldVxMem (x : Reg)
  deriving DecidableEq, Repr

/-- The mnemonic of the instruction's row in spec/opcode_table.json. -/
def Instr.mnemonic : Instr → String
  | .cls => "CLS"
  | .ret => "RET"
  | .jp _ => "JP"
  | .call _ => "CALL"
  | .seImm _ _ => "SE_IMM"
  | .sneImm _ _ => "SNE_IMM"
  | .seReg _ _ => "SE_REG"
  | .ldImm _ _ => "LD_IMM"
  | .addImm _ _ => "ADD_IMM"
  | .ldReg _ _ => "LD_REG"
  | .orReg _ _ => "OR"
  | .andReg _ _ => "AND"
  | .xorReg _ _ => "XOR"
  | .addReg _ _ => "ADD_REG"
  | .sub _ _ => "SUB"
  | .shr _ _ => "SHR"
  | .subn _ _ => "SUBN"
  | .shl _ _ => "SHL"
  | .sneReg _ _ => "SNE_REG"
  | .ldI _ => "LD_I"
  | .jpV0 _ => "JP_V0"
  | .rnd _ _ => "RND"
  | .drw _ _ _ => "DRW"
  | .skp _ => "SKP"
  | .sknp _ => "SKNP"
  | .ldVxDt _ => "LD_VX_DT"
  | .ldVxK _ => "LD_VX_K"
  | .ldDtVx _ => "LD_DT_VX"
  | .ldStVx _ => "LD_ST_VX"
  | .addIVx _ => "ADD_I_VX"
  | .ldFVx _ => "LD_F_VX"
  | .ldBVx _ => "LD_B_VX"
  | .ldMemVx _ => "LD_MEM_VX"
  | .ldVxMem _ => "LD_VX_MEM"

end Sys2Proof
end

