-- ==== Sys2Proof/WellFormed.lean ====
section
/-! DEFINITION. The check on an instruction term, and the loader's check on a program image. Every other field bound of
R91 (register numbers, `nn`, `nnn`) is carried by the field's type. -/

namespace Sys2Proof

/-- The number of sprite rows fits the 4-bit field `n` (spec/30_encoding.md R91, R93: 0..15); no other field of an
instruction can hold a value its encoding lacks. -/
def Instr.wellFormed : Instr → Bool
  | .drw _ _ n => n < 16
  | .cls | .ret | .jp _ | .call _ | .seImm _ _ | .sneImm _ _ | .seReg _ _ | .ldImm _ _ | .addImm _ _ | .ldReg _ _
  | .orReg _ _ | .andReg _ _ | .xorReg _ _ | .addReg _ _ | .sub _ _ | .shr _ _ | .subn _ _ | .shl _ _ | .sneReg _ _
  | .ldI _ | .jpV0 _ | .rnd _ _ | .skp _ | .sknp _ | .ldVxDt _ | .ldVxK _ | .ldDtVx _ | .ldStVx _ | .addIVx _
  | .ldFVx _ | .ldBVx _ | .ldMemVx _ | .ldVxMem _ => true

/-- A well-formed instruction: one that some word encodes. -/
abbrev Instr.WellFormed (i : Instr) : Prop := i.wellFormed = true

/-- `MAX_IMAGE` (R6, spec/70_reset_and_hazards.md R293): a program image has at most 4096 - 0x200 = 3584 bytes. -/
def imageFits (bytes : List Byte) : Bool := bytes.length ≤ 3584

end Sys2Proof
end

