-- ==== Sys2Proof/Decode.lean ====
section
/-! DEFINITION. Decoding (spec/30_encoding.md R90 to R97) and encoding, both written from the opcode map of R95, and
that map as data. -/

namespace Sys2Proof

/-! ## The fields of an instruction word (R91) -/

/-- `kind`, bits 15:12 kept in place: the instruction family. -/
def fieldKind (w : Word) : Word := w &&& 0xF000#16

/-- `op`, which is `kind >> 12`: the family number. -/
def fieldOp (w : Word) : BitVec 4 := (fieldKind w).extractLsb' 12 4

/-- `x`, bits 11:8: a register number. -/
def fieldX (w : Word) : Reg := (w.extractLsb' 8 4).toFin

/-- `y`, bits 7:4: a register number. -/
def fieldY (w : Word) : Reg := (w.extractLsb' 4 4).toFin

/-- `n`, bits 3:0: the sprite height, and the sub-opcode of families 5, 8 and 9. -/
def fieldN (w : Word) : BitVec 4 := w.extractLsb' 0 4

/-- `nn`, bits 7:0: the 8-bit immediate, and the sub-opcode of families E and F. -/
def fieldNN (w : Word) : Byte := w.extractLsb' 0 8

/-- `nnn`, bits 11:0: the 12-bit address immediate. -/
def fieldNNN (w : Word) : Addr12 := w.extractLsb' 0 12

/-! ## Decoding -/

/-- What the decoder answers on any bytes. -/
inductive Decoded where
  /-- The instruction the word encodes. -/
  | instr (i : Instr)
  /-- The word matches no row of R95 (R96, R97): `UnknownInstruction(word)`. -/
  | unknownInstruction (w : Word)
  /-- Fewer than the two bytes every instruction has (R90); a step never gets here, its fetch faults first. -/
  | truncated
  deriving DecidableEq, Repr

/-- The instruction, where there is one. -/
def Decoded.toOption : Decoded → Option Instr
  | .instr i => some i
  | .unknownInstruction _ => none
  | .truncated => none

/-- Family 0 (R95 rows 1 and 2, R97): `00E0` and `00EE`, matched on all 16 bits. -/
def decodeFamily0 (w : Word) : Decoded :=
  if w = 0x00E0#16 then .instr .cls
  else if w = 0x00EE#16 then .instr .ret
  else .unknownInstruction w

/-- Family 5 (R95 row 7): `5XY0`. -/
def decodeFamily5 (w : Word) : Decoded :=
  if fieldN w = 0x0#4 then .instr (.seReg (fieldX w) (fieldY w)) else .unknownInstruction w

/-- Family 8 (R95 rows 10 to 18): the register ALU group, selected by `n`. -/
def decodeFamily8 (w : Word) : Decoded :=
  let n := fieldN w
  if n = 0x0#4 then .instr (.ldReg (fieldX w) (fieldY w))
  else if n = 0x1#4 then .instr (.orReg (fieldX w) (fieldY w))
  else if n = 0x2#4 then .instr (.andReg (fieldX w) (fieldY w))
  else if n = 0x3#4 then .instr (.xorReg (fieldX w) (fieldY w))
  else if n = 0x4#4 then .instr (.addReg (fieldX w) (fieldY w))
  else if n = 0x5#4 then .instr (.sub (fieldX w) (fieldY w))
  else if n = 0x6#4 then .instr (.shr (fieldX w) (fieldY w))
  else if n = 0x7#4 then .instr (.subn (fieldX w) (fieldY w))
  else if n = 0xE#4 then .instr (.shl (fieldX w) (fieldY w))
  else .unknownInstruction w

/-- Family 9 (R95 row 19): `9XY0`. -/
def decodeFamily9 (w : Word) : Decoded :=
  if fieldN w = 0x0#4 then .instr (.sneReg (fieldX w) (fieldY w)) else .unknownInstruction w

/-- Family E (R95 rows 24 and 25): the key skips, selected by the low byte. -/
def decodeFamilyE (w : Word) : Decoded :=
  let nn := fieldNN w
  if nn = 0x9E#8 then .instr (.skp (fieldX w))
  else if nn = 0xA1#8 then .instr (.sknp (fieldX w))
  else .unknownInstruction w

/-- Family F (R95 rows 26 to 34), selected by the low byte. -/
def decodeFamilyF (w : Word) : Decoded :=
  let nn := fieldNN w
  if nn = 0x07#8 then .instr (.ldVxDt (fieldX w))
  else if nn = 0x0A#8 then .instr (.ldVxK (fieldX w))
  else if nn = 0x15#8 then .instr (.ldDtVx (fieldX w))
  else if nn = 0x18#8 then .instr (.ldStVx (fieldX w))
  else if nn = 0x1E#8 then .instr (.addIVx (fieldX w))
  else if nn = 0x29#8 then .instr (.ldFVx (fieldX w))
  else if nn = 0x33#8 then .instr (.ldBVx (fieldX w))
  else if nn = 0x55#8 then .instr (.ldMemVx (fieldX w))
  else if nn = 0x65#8 then .instr (.ldVxMem (fieldX w))
  else .unknownInstruction w

/-- `Decode(word)` (R94, R95, R123): `op` selects the family, the sub-opcode the instruction inside it; matching is
strict (D2, log 3). The patterns other than `6XNN`, `1NNN`, `2NNN` and `00EE` are general knowledge (G1, log 1). -/
def decode (w : Word) : Decoded :=
  match (fieldOp w).toNat with
  | 0x0 => decodeFamily0 w
  | 0x1 => .instr (.jp (fieldNNN w))
  | 0x2 => .instr (.call (fieldNNN w))
  | 0x3 => .instr (.seImm (fieldX w) (fieldNN w))
  | 0x4 => .instr (.sneImm (fieldX w) (fieldNN w))
  | 0x5 => decodeFamily5 w
  | 0x6 => .instr (.ldImm (fieldX w) (fieldNN w))
  | 0x7 => .instr (.addImm (fieldX w) (fieldNN w))
  | 0x8 => decodeFamily8 w
  | 0x9 => decodeFamily9 w
  | 0xA => .instr (.ldI (fieldNNN w))
  | 0xB => .instr (.jpV0 (fieldNNN w))
  | 0xC => .instr (.rnd (fieldX w) (fieldNN w))
  | 0xD => .instr (.drw (fieldX w) (fieldY w) (fieldN w).toNat)
  | 0xE => decodeFamilyE w
  | _ => decodeFamilyF w   -- op has four bits: only 0xF is left

/-- The word of two consecutive bytes, high byte first (R66, R90). -/
def wordOfBytes (hi lo : Byte) : Word := hi ++ lo

/-- The decoder on a list of bytes (R90): the first two bytes are the instruction. -/
def decodeBytes : List Byte → Decoded
  | hi :: lo :: _ => decode (wordOfBytes hi lo)
  | _ => .truncated

/-! ## Encoding -/

/-- The two bytes of a word as memory holds them, high byte at the lower address (R90). -/
def bytesOfWord (w : Word) : List Byte := [w.extractLsb' 8 8, w.extractLsb' 0 8]

/-- A register number as the four bits of its field (R91). -/
def regBits (r : Reg) : BitVec 4 := BitVec.ofFin r

/-- Formats `REG_REG` and `DRAW` (R92). -/
def packXYN (op : BitVec 4) (x y : Reg) (n : BitVec 4) : Word := op ++ regBits x ++ regBits y ++ n

/-- Formats `REG_IMM` and `REG` (R92). -/
def packXNN (op : BitVec 4) (x : Reg) (nn : Byte) : Word := op ++ regBits x ++ nn

/-- Format `ADDR` (R92). -/
def packNNN (op : BitVec 4) (nnn : Addr12) : Word := op ++ nnn

/-- The word of a well-formed instruction, from the patterns of R95. -/
def encode : Instr → Word
  | .cls => 0x00E0#16
  | .ret => 0x00EE#16
  | .jp nnn => packNNN 0x1#4 nnn
  | .call nnn => packNNN 0x2#4 nnn
  | .seImm x nn => packXNN 0x3#4 x nn
  | .sneImm x nn => packXNN 0x4#4 x nn
  | .seReg x y => packXYN 0x5#4 x y 0x0#4
  | .ldImm x nn => packXNN 0x6#4 x nn
  | .addImm x nn => packXNN 0x7#4 x nn
  | .ldReg x y => packXYN 0x8#4 x y 0x0#4
  | .orReg x y => packXYN 0x8#4 x y 0x1#4
  | .andReg x y => packXYN 0x8#4 x y 0x2#4
  | .xorReg x y => packXYN 0x8#4 x y 0x3#4
  | .addReg x y => packXYN 0x8#4 x y 0x4#4
  | .sub x y => packXYN 0x8#4 x y 0x5#4
  | .shr x y => packXYN 0x8#4 x y 0x6#4
  | .subn x y => packXYN 0x8#4 x y 0x7#4
  | .shl x y => packXYN 0x8#4 x y 0xE#4
  | .sneReg x y => packXYN 0x9#4 x y 0x0#4
  | .ldI nnn => packNNN 0xA#4 nnn
  | .jpV0 nnn => packNNN 0xB#4 nnn
  | .rnd x nn => packXNN 0xC#4 x nn
  | .drw x y n => packXYN 0xD#4 x y (BitVec.ofNat 4 n)
  | .skp x => packXNN 0xE#4 x 0x9E#8
  | .sknp x => packXNN 0xE#4 x 0xA1#8
  | .ldVxDt x => packXNN 0xF#4 x 0x07#8
  | .ldVxK x => packXNN 0xF#4 x 0x0A#8
  | .ldDtVx x => packXNN 0xF#4 x 0x15#8
  | .ldStVx x => packXNN 0xF#4 x 0x18#8
  | .addIVx x => packXNN 0xF#4 x 0x1E#8
  | .ldFVx x => packXNN 0xF#4 x 0x29#8
  | .ldBVx x => packXNN 0xF#4 x 0x33#8
  | .ldMemVx x => packXNN 0xF#4 x 0x55#8
  | .ldVxMem x => packXNN 0xF#4 x 0x65#8

/-! ## The opcode map as data -/

/-- One row of R95: the row's mnemonic in spec/opcode_table.json, its mask and its match. -/
structure OpcodeRow where
  mnemonic : String
  mask     : Word
  value    : Word
  deriving DecidableEq, Repr

/-- The word has every fixed bit of the row (R94: `word & mask = match`). -/
def OpcodeRow.matchesWord (r : OpcodeRow) (w : Word) : Bool := w &&& r.mask == r.value

/-- R95, rows 1 to 9. -/
def opcodeRowsA : List OpcodeRow :=
  [⟨"CLS", 0xFFFF, 0x00E0⟩, ⟨"RET", 0xFFFF, 0x00EE⟩, ⟨"JP", 0xF000, 0x1000⟩, ⟨"CALL", 0xF000, 0x2000⟩,
   ⟨"SE_IMM", 0xF000, 0x3000⟩, ⟨"SNE_IMM", 0xF000, 0x4000⟩, ⟨"SE_REG", 0xF00F, 0x5000⟩, ⟨"LD_IMM", 0xF000, 0x6000⟩,
   ⟨"ADD_IMM", 0xF000, 0x7000⟩]

/-- R95, rows 10 to 19. -/
def opcodeRowsB : List OpcodeRow :=
  [⟨"LD_REG", 0xF00F, 0x8000⟩, ⟨"OR", 0xF00F, 0x8001⟩, ⟨"AND", 0xF00F, 0x8002⟩, ⟨"XOR", 0xF00F, 0x8003⟩,
   ⟨"ADD_REG", 0xF00F, 0x8004⟩, ⟨"SUB", 0xF00F, 0x8005⟩, ⟨"SHR", 0xF00F, 0x8006⟩, ⟨"SUBN", 0xF00F, 0x8007⟩,
   ⟨"SHL", 0xF00F, 0x800E⟩, ⟨"SNE_REG", 0xF00F, 0x9000⟩]

/-- R95, rows 20 to 34. -/
def opcodeRowsC : List OpcodeRow :=
  [⟨"LD_I", 0xF000, 0xA000⟩, ⟨"JP_V0", 0xF000, 0xB000⟩, ⟨"RND", 0xF000, 0xC000⟩, ⟨"DRW", 0xF000, 0xD000⟩,
   ⟨"SKP", 0xF0FF, 0xE09E⟩, ⟨"SKNP", 0xF0FF, 0xE0A1⟩, ⟨"LD_VX_DT", 0xF0FF, 0xF007⟩, ⟨"LD_VX_K", 0xF0FF, 0xF00A⟩,
   ⟨"LD_DT_VX", 0xF0FF, 0xF015⟩, ⟨"LD_ST_VX", 0xF0FF, 0xF018⟩, ⟨"ADD_I_VX", 0xF0FF, 0xF01E⟩,
   ⟨"LD_F_VX", 0xF0FF, 0xF029⟩, ⟨"LD_B_VX", 0xF0FF, 0xF033⟩, ⟨"LD_MEM_VX", 0xF0FF, 0xF055⟩,
   ⟨"LD_VX_MEM", 0xF0FF, 0xF065⟩]

/-- The complete opcode map (R95): 34 rows. -/
def opcodeTable : List OpcodeRow := opcodeRowsA ++ opcodeRowsB ++ opcodeRowsC

/-! ## The host's numbering of an instruction's bits -/

/-- The instruction word whose bits, numbered as spec/opcode_table.json numbers them, are the low `nbits` bits of `w`
(every instruction is one 16-bit word, so bit 0 is that word's least significant bit). -/
def tableWord (nbits w : Nat) : Word := BitVec.ofNat 16 (w % 2 ^ nbits)

/-- What the decoder reads from that word as memory holds it. -/
def decodeTableWord (nbits w : Nat) : Option Instr := (decodeBytes (bytesOfWord (tableWord nbits w))).toOption

end Sys2Proof
end

