-- ==== Sys2Proof/Config.lean ====
section
/-! DEFINITION. What one implementation fixes (spec/00_scope.md R6): the types of the decided parameters, and the
one value the spec leaves free, the random byte. The values chosen for the parameters are in Machine/Params.lean. -/

namespace Sys2Proof

/-- `SHIFT_SOURCE` (R6, D4): which register the two shifts shift. -/
inductive ShiftSource where
  /-- Vx, in place; the field y is ignored. -/
  | x
  /-- Vy, the result going to Vx. -/
  | y
  deriving DecidableEq, Repr

/-- `DRAW_EDGE_POLICY` (R6, R212, D7): what happens to a pixel beyond the screen's edge. -/
inductive DrawEdge where
  /-- Each pixel coordinate is reduced modulo the screen size. -/
  | wrap
  /-- The start is reduced, a pixel beyond the edge is skipped. -/
  | clip
  deriving DecidableEq, Repr

/-- `KEY_INDEX_POLICY` (R6, D10): a key number above 15 in the two key skips. -/
inductive KeyIndexPolicy where
  /-- A bounds violation. -/
  | fault
  /-- Only the low four bits count. -/
  | mask4
  deriving DecidableEq, Repr

/-- `VF_WRITE_ORDER` (R6, R160, D5): the order of the two writes of a flag-writing ALU instruction. -/
inductive VfWriteOrder where
  /-- VF first, then Vx. -/
  | flagThenResult
  /-- Vx first, then VF. -/
  | resultThenFlag
  deriving DecidableEq, Repr

/-- The decided parameters that have a named alternative in R6. -/
structure Params where
  shiftSource  : ShiftSource
  drawEdge     : DrawEdge
  keyIndex     : KeyIndexPolicy
  vfWriteOrder : VfWriteOrder
  deriving DecidableEq, Repr

/-- `Rand8()` (R35, R171, R266, D13): the k-th random byte the machine consumes. A free value: no body, no law, no
relation between successive bytes (log 11). -/
opaque Config.rand8 : Nat → Byte

end Sys2Proof
end

