-- ==== Sys2Proof/Machine/Params.lean ====
section
/-! DEFINITION. The values of the decided parameters (spec/00_scope.md R6) and the font (spec/20_memory.md R62). -/

namespace Sys2Proof.Machine

/-- The defaults of R6: `SHIFT_SOURCE = X` (D4, log 4), `DRAW_EDGE_POLICY = WRAP` (D7, log 7),
`KEY_INDEX_POLICY = FAULT` (D10, log 9), `VF_WRITE_ORDER = FLAG_THEN_RESULT` (D5, log 5). -/
def params : Params :=
  { shiftSource := .x, drawEdge := .wrap, keyIndex := .fault, vfWriteOrder := .flagThenResult }

/-- Glyphs 0 to 7 of `FONT_PATTERNS` (R62; general knowledge, G2, log 2). -/
def fontLow : List Byte :=
  [0xF0, 0x90, 0x90, 0x90, 0xF0,  0x20, 0x60, 0x20, 0x20, 0x70,  0xF0, 0x10, 0xF0, 0x80, 0xF0,
   0xF0, 0x10, 0xF0, 0x10, 0xF0,  0x90, 0x90, 0xF0, 0x10, 0x10,  0xF0, 0x80, 0xF0, 0x10, 0xF0,
   0xF0, 0x80, 0xF0, 0x90, 0xF0,  0xF0, 0x10, 0x20, 0x40, 0x40]

/-- Glyphs 8 to F of `FONT_PATTERNS` (R62). -/
def fontHigh : List Byte :=
  [0xF0, 0x90, 0xF0, 0x90, 0xF0,  0xF0, 0x90, 0xF0, 0x10, 0xF0,  0xF0, 0x90, 0xF0, 0x90, 0x90,
   0xE0, 0x90, 0xE0, 0x90, 0xE0,  0xF0, 0x80, 0x80, 0x80, 0xF0,  0xE0, 0x90, 0x90, 0x90, 0xE0,
   0xF0, 0x80, 0xF0, 0x80, 0xF0,  0xF0, 0x80, 0xF0, 0x80, 0x80]

/-- `FONT_PATTERNS` (R6, R62): the 80 bytes at 0x000..0x04F, five per glyph. -/
def fontPatterns : List Byte := fontLow ++ fontHigh

end Sys2Proof.Machine
end

