-- ==== Sys2Proof/Machine/State.lean ====
section
/-! DEFINITION. The machine's state (spec/10_state.md), the outcomes a step has besides a next state
(spec/60_exceptions.md), and the state after reset (R40). -/

namespace Sys2Proof.Machine

/-- The sub-cause of a bounds violation (R252, R254). -/
inductive BoundsCause where
  /-- Raised by the fetch when PC + 1 is outside memory (R121). -/
  | fetch
  /-- Raised by return when SP = 0 (R140). -/
  | stackUnderflow
  /-- Raised by call when SP = 16 (R142). -/
  | stackOverflow
  /-- Raised by draw-sprite and register-load; `addr` is the address out of range (R64, R195, R211). -/
  | memRead (addr : Nat)
  /-- Raised by store-BCD and register-dump; `addr` is the address out of range (R65, R193, R194). -/
  | memWrite (addr : Nat)
  /-- Raised by the two key skips; `vx` is the key number above 15 (R230, R231). -/
  | keyIndex (vx : Byte)
  deriving DecidableEq, Repr

/-- A fatal condition, with what the FAULT record keeps of it (R32, R255): kind, sub-cause, word, `pc0`. It carries no
state, as R32 demands: after it all the state R32 lists is unspecified (logs 12, 31). -/
inductive Fault where
  /-- Raised by the decode phase of a step for a word that matches no row of the opcode map (R251). Safe: the spec
  makes it fatal for every such word, whatever the state. -/
  | unknownInstruction (word pc0 : Word)
  /-- Raised by the fetch and by the instructions R252 lists, for an address, a stack index or a key number outside its
  storage; `word` is absent for a fetch fault. Safe: the spec makes it fatal (for a key number by its decision D10,
  log 9, where a machine that masks the number would go on). -/
  | boundsViolation (cause : BoundsCause) (word : Option Word) (pc0 : Word)
  deriving DecidableEq, Repr

/-- A step the model declines. No instruction of this machine needs one. -/
inductive Refusal where
  /-- Raised by an arm of `exec` whose instruction has no meaning yet (there is none such). Safe: nothing follows
  from a refused step. -/
  | notModelled (mnemonic : String)
  deriving DecidableEq, Repr

/-- The state of R20 to R36, one field per row of the table of spec/10_state.md section 1, and the model's own
counter `draws`. -/
structure State where
  /-- V0..VF (R20); VF is `v[15]` (R21). -/
  v     : Vector Byte 16
  /-- I, the index register (R23). -/
  i     : Word
  /-- PC: between steps the address of the next instruction (R24). -/
  pc    : Word
  /-- SP: the number of return addresses on the stack (R28). -/
  sp    : Fin 17
  /-- STACK[0..15] (R27). -/
  stack : Vector Word 16
  /-- DT, the delay timer (R29). -/
  dt    : Byte
  /-- ST, the sound timer (R30). -/
  st    : Byte
  /-- MEM (R31, R60): the cells that differ from the reset contents, addresses rising. -/
  mem   : List Host.Cell
  /-- FB (R33). -/
  fb    : Frame
  /-- KEY (R34), an input the core only reads. -/
  key   : Keys
  /-- HALT (R32). -/
  halt  : Bool
  /-- FAULT (R32): empty, or the record of the fatal condition. -/
  fault : Option Fault
  /-- The model's own: how many random bytes have been consumed (R35, log 11). -/
  draws : Nat
  deriving DecidableEq, Repr

/-- The state after reset (R40, R290, R291). KEY and `draws` are the model's choice (logs 15 and 11). -/
def State.reset : State :=
  { v := Vector.replicate 16 0, i := 0, pc := 0x0200, sp := 0, stack := Vector.replicate 16 0, dt := 0, st := 0,
    mem := [], fb := Vector.replicate 32 0, key := 0, halt := false, fault := none, draws := 0 }

end Sys2Proof.Machine
end

