-- ==== Sys2Proof/Machine/Ops.lean ====
section
/-! DEFINITION. The named operations over memory and registers, and the one operation by which an instruction enters
the fatal condition (spec/10_state.md, spec/20_memory.md, spec/60_exceptions.md). -/

namespace Sys2Proof.Machine

/-! ## Memory (R60 to R66) -/

/-- MEM, as `State.mem` holds it. -/
abbrev Memory := List Host.Cell

/-- What a cell holds until something writes it: the font at 0x000..0x04F, 0 elsewhere (R40, R62). -/
def Memory.unlisted (a : Nat) : Byte := fontPatterns.getD a 0

/-- `MEM[a]` (R64, for an address in range). -/
def Memory.read : Memory → Nat → Byte
  | [], a => Memory.unlisted a
  | c :: rest, a => if c.1 = a then c.2 else Memory.read rest a

/-- Put a cell in front of the first one with a higher address. -/
def Memory.insert (c : Host.Cell) : Memory → Memory
  | [] => [c]
  | d :: rest => if c.1 < d.1 then c :: d :: rest else d :: Memory.insert c rest

/-- `MEM[a] <- b` (R65, for an address in range): the old entry goes; a new one comes unless the value is what an
unlisted cell reads as. -/
def Memory.write (m : Memory) (a : Nat) (b : Byte) : Memory :=
  let rest := m.filter (fun c => c.1 ≠ a)
  if b = Memory.unlisted a then rest else Memory.insert (a, b) rest

/-- `MEM[base + k] <- bs[k]` for every k, in ascending order (R69). -/
def Memory.writeBytes (m : Memory) (base : Nat) : List Byte → Memory
  | [] => m
  | b :: bs => Memory.writeBytes (Memory.write m base b) (base + 1) bs

/-- The canonical form: addresses rise, all are below 4096, and no entry says what an unlisted cell reads as. -/
abbrev Memory.wf (m : Memory) : Prop :=
  m.Pairwise (fun c d => c.1 < d.1) ∧ ∀ c ∈ m, c.1 < 4096 ∧ c.2 ≠ Memory.unlisted c.1

/-- Replace MEM (R31). -/
def State.setMem (s : State) (m : Memory) : State := { s with mem := m }

/-- `MemRead(base + k, 1)` for k = 0 .. count - 1 (R64, R196): a bounds violation if the last address is 4096 or
more, checked before anything is read (R195, R211); no bytes, no check. -/
def loadBytes (s : State) (base count : Nat) : Except BoundsCause (List Byte) :=
  if 0 < count ∧ 4096 ≤ base + count - 1 then .error (.memRead (base + count - 1))
  else .ok ((List.range count).map fun k => Memory.read s.mem (base + k))

/-- `MemWrite(base + k, 1, bs[k])` for every k (R65, R196): a bounds violation if the last address is 4096 or more,
checked before anything is written (R193, R194). -/
def storeBytes (s : State) (base : Nat) (bs : List Byte) : Except BoundsCause State :=
  if 0 < bs.length ∧ 4096 ≤ base + bs.length - 1 then .error (.memWrite (base + bs.length - 1))
  else .ok (s.setMem (Memory.writeBytes s.mem base bs))

/-- Fetch (R66, R121): the word at PC, high byte first; a bounds violation if PC + 1 is outside memory. -/
def fetch (s : State) : Except BoundsCause Word :=
  if 4096 ≤ s.pc.toNat + 1 then .error .fetch
  else .ok (wordOfBytes (Memory.read s.mem s.pc.toNat) (Memory.read s.mem (s.pc.toNat + 1)))

/-! ## Registers -/

/-- VF (R21). -/
abbrev vf : Reg := 15

/-- `V[r]` (R20). -/
def State.reg (s : State) (r : Reg) : Byte := s.v[r]

/-- `V[r] <- b` (R20). -/
def State.setReg (s : State) (r : Reg) (b : Byte) : State := { s with v := s.v.set r b }

/-- V0, V1, ... V(k - 1), the first k registers (R194). -/
def State.firstRegs (s : State) (k : Nat) : List Byte := s.v.toList.take k

/-- `V[k + j] <- bs[j]` for every j, ascending (R195). -/
def loadVector (v : Vector Byte 16) (k : Nat) : List Byte → Vector Byte 16
  | [] => v
  | b :: bs => loadVector (v.setIfInBounds k b) (k + 1) bs

/-- Load the first registers from a list of bytes (R195). -/
def State.loadRegs (s : State) (bs : List Byte) : State := { s with v := loadVector s.v 0 bs }

/-- `I <- w` (R23). -/
def State.setI (s : State) (w : Word) : State := { s with i := w }

/-- `PC <- w` (R24). -/
def State.setPc (s : State) (w : Word) : State := { s with pc := w }

/-- `DT <- b` (R29). -/
def State.setDt (s : State) (b : Byte) : State := { s with dt := b }

/-- `ST <- b` (R30). -/
def State.setSt (s : State) (b : Byte) : State := { s with st := b }

/-- Replace the framebuffer (R33). -/
def State.setFb (s : State) (f : Frame) : State := { s with fb := f }

/-- `Rand8()` (R8, R266): the next random byte. -/
def State.rand (s : State) : Byte := Config.rand8 s.draws

/-- That random byte is consumed: the next draw is a fresh one (R35). -/
def State.consumeRand (s : State) : State := { s with draws := s.draws + 1 }

/-! ## The program counter (R24, R25, R122, R148) -/

/-- The advance of PC before dispatch (R122). -/
def State.advance (s : State) : State := s.setPc (s.pc + 2)

/-- `pc0` as an instruction sees it, PC being `pc0 + 2` already (R120, R124; log 17). -/
def State.pc0 (s : State) : Word := s.pc - 2

/-- `Skip(cond)` (R148): a further + 2 if the condition holds. -/
def State.skipIf (s : State) (cond : Bool) : State := if cond then s.setPc (s.pc + 2) else s

/-! ## The call stack (R27, R28) -/

/-- `STACK[SP] <- w`, `SP <- SP + 1` (R142), where there is room. -/
def State.push (s : State) (w : Word) : Option State :=
  if h : s.sp.val < 16 then
    some { s with stack := s.stack.set s.sp.val w h, sp := ⟨s.sp.val + 1, by omega⟩ }
  else none

/-- `SP <- SP - 1`, then `STACK[SP]` (R140), where there is an entry: the popped entry, and the state without it (the
stack array keeps its contents, R28). -/
def State.pop (s : State) : Option (Word × State) :=
  if h : 0 < s.sp.val then
    some (s.stack[s.sp.val - 1]'(by omega), { s with sp := ⟨s.sp.val - 1, by omega⟩ })
  else none

/-! ## The framebuffer (R33, R74) -/

/-- `FbIndex(px, py)` (R74): the linear index of a cell. -/
def fbIndex (px py : Nat) : Nat := px + 64 * py

/-- The cell at column px and row py. -/
def litAt (f : Frame) (px : Fin 64) (py : Fin 32) : Bool := (f[py]).getLsbD px

/-- `FB[x + 64*y] <- FB[x + 64*y] ^ 1` (R211). -/
def toggleCell (f : Frame) (px : Fin 64) (py : Fin 32) : Frame := f.set py (f[py] ^^^ BitVec.twoPow 64 px)

/-- Every cell unlit (R210). -/
def clearFrame : Frame := Vector.replicate 32 0

/-- `FB[j]`, 0 <= j <= 2047 (R33). -/
def cellAt (f : Frame) (j : Fin 2048) : Bool :=
  litAt f ⟨j.val % 64, by omega⟩ ⟨j.val / 64, by omega⟩

/-! ## The keypad (R34) -/

/-- `KEY[k] = 1`. -/
def State.pressed (s : State) (k : Fin 16) : Bool := s.key.getLsbD k

/-- The least k with `KEY[k] = 1` (R232, `AWAIT_KEY_PICK = LOWEST`, D11, log 10). -/
def State.lowestKey (s : State) : Option (Fin 16) := (List.finRange 16).find? s.pressed

/-! ## Taking a fatal condition (R250 to R258) -/

/-- The kind of a fatal condition, as R254 numbers it (3, `LoadSizeViolation`, is the loader's). -/
def Fault.kind : Fault → Nat
  | .unknownInstruction _ _ => 1
  | .boundsViolation _ _ _ => 2

/-- The number of a sub-cause (R254). -/
def BoundsCause.number : BoundsCause → Nat
  | .fetch => 1
  | .stackUnderflow => 2
  | .stackOverflow => 3
  | .memRead _ => 4
  | .memWrite _ => 5
  | .keyIndex _ => 6

/-- The sub-cause field of the FAULT record; an unknown instruction has none (R254). -/
def Fault.subCause : Fault → Option BoundsCause
  | .unknownInstruction _ _ => none
  | .boundsViolation c _ _ => some c

/-- The word field of the FAULT record: the word, if one was fetched (R255). -/
def Fault.word : Fault → Option Word
  | .unknownInstruction w _ => some w
  | .boundsViolation _ w _ => w

/-- The `pc0` field of the FAULT record (R255). -/
def Fault.pc0 : Fault → Word
  | .unknownInstruction _ p => p
  | .boundsViolation _ _ p => p

/-- Entry into the fatal condition (R255): the step ends with the record, and with no state. -/
def raiseFatal (r : Fault) : Host.Outcome State Fault Refusal := .fault r

/-- The bounds violation of an instruction: the record holds its word and the address it was fetched from (R255). -/
def raiseBounds (i : Instr) (s : State) (c : BoundsCause) : Host.Outcome State Fault Refusal :=
  raiseFatal (.boundsViolation c (some (encode i)) s.pc0)

/-- Go on with a checked value, or raise its bounds violation (R124, R127). -/
def orFatal {α : Type} (i : Instr) (s : State) (r : Except BoundsCause α)
    (k : α → Host.Outcome State Fault Refusal) : Host.Outcome State Fault Refusal :=
  match r with
  | .ok a => k a
  | .error c => raiseBounds i s c

/-- The machine `t` is what a fatal condition with record `r`, raised by a step of `s`, leaves (R32, R255): HALT is set,
FAULT holds the record, and V, I, PC, SP, STACK, DT, ST, MEM and FB are unspecified (D15, log 12; memory is still memory,
in its canonical form). DEDUCED (log 31): KEY keeps its value, since it is an input the core never writes (R34, C7) and
the lists of R32 and R255 omit it, although D15 says "all state but HALT and FAULT". The model's own count of random
bytes stays too: no fatal step consumes one. -/
abbrev LeftBy (s : State) (r : Fault) (t : State) : Prop :=
  t.halt = true ∧ t.fault = some r ∧ t.key = s.key ∧ t.draws = s.draws ∧ Memory.wf t.mem

end Sys2Proof.Machine
end

