-- ==== Sys2Proof/Machine/Operands.lean ====
section
/-! DEFINITION. The operand forms of the instructions: registers and immediates (spec/30_encoding.md R93), the shift
source (R168, R170), the key number (R230, R231), the address in I (spec/43_index_and_memory.md R196). -/

namespace Sys2Proof.Machine

/-- The source of a shift (R168, R170): `V[x]` with `SHIFT_SOURCE = X`, `V[y]` with `SHIFT_SOURCE = Y` (D4). -/
def shiftSource (p : ShiftSource) (x y : Reg) (s : State) : Byte :=
  match p with
  | .x => s.reg x
  | .y => s.reg y

/-- The key a register names (R230, R231): above 15 a bounds violation with `KEY_INDEX_POLICY = FAULT`, its low four
bits with `MASK4` (D10). -/
def keyOperand (p : KeyIndexPolicy) (x : Reg) (s : State) : Except BoundsCause (Fin 16) :=
  match p with
  | .fault => if h : (s.reg x).toNat < 16 then .ok ⟨(s.reg x).toNat, h⟩ else .error (.keyIndex (s.reg x))
  | .mask4 => .ok ⟨(s.reg x).toNat % 16, by omega⟩

/-- The effective address base (R196): the value of I at the start of the instruction, as a natural number. -/
def State.base (s : State) : Nat := s.i.toNat

end Sys2Proof.Machine
end

