-- ==== Sys2Proof/Machine/Flags.lean ====
section
/-! DEFINITION. The flag computations (spec/10_state.md R37) and the two writes of a flag-writing ALU instruction
(spec/42_immediate_and_alu.md R160). A flag is exactly 0 or 1 (R172). -/

namespace Sys2Proof.Machine

/-- A flag value as VF holds it (R172). -/
def flagByte (b : Bool) : Byte := if b then 1 else 0

/-- ADD: 1 if the exact sum exceeds 255 (R166). -/
def addFlag (a b : Byte) : Byte := flagByte (255 < a.toNat + b.toNat)

/-- A subtraction `a - b`: 1 exactly when the minuend is strictly greater (R167, R169; C2, log 6). -/
def subFlag (a b : Byte) : Byte := flagByte (b.toNat < a.toNat)

/-- Right-shift: bit 0 of the source (R168). -/
def shrFlag (a : Byte) : Byte := flagByte (a.getLsbD 0)

/-- Left-shift: bit 7 of the source, as 0 or 1 (R170). -/
def shlFlag (a : Byte) : Byte := flagByte (a.getLsbD 7)

/-- Phases 2 and 3 of R160 on values computed from the snapshot: write the flag into VF and the result into Vx, in the
order of `VF_WRITE_ORDER` (D5). -/
def State.setFlagAndResult (s : State) (p : VfWriteOrder) (x : Reg) (flag result : Byte) : State :=
  match p with
  | .flagThenResult => (s.setReg vf flag).setReg x result
  | .resultThenFlag => (s.setReg x result).setReg vf flag

end Sys2Proof.Machine
end

