-- ==== Sys2Proof/Machine/Alu.lean ====
section
/-! DEFINITION. Immediate loads, the register ALU group and random-and (spec/42_immediate_and_alu.md R158 to R172).
Operands are read from the state before anything is written (R129, R160). -/

namespace Sys2Proof.Machine

/-- load-immediate (R158). -/
def execLdImm (x : Reg) (nn : Byte) (s : State) : Host.Outcome State Fault Refusal :=
  .next (s.setReg x nn)

/-- add-immediate (R159): modulo 256, no flag. -/
def execAddImm (x : Reg) (nn : Byte) (s : State) : Host.Outcome State Fault Refusal :=
  .next (s.setReg x (s.reg x + nn))

/-- assign (R161). -/
def execLdReg (x y : Reg) (s : State) : Host.Outcome State Fault Refusal :=
  .next (s.setReg x (s.reg y))

/-- bitwise OR (R162): VF is not touched. -/
def execOrReg (x y : Reg) (s : State) : Host.Outcome State Fault Refusal :=
  .next (s.setReg x (s.reg x ||| s.reg y))

/-- bitwise AND (R163). -/
def execAndReg (x y : Reg) (s : State) : Host.Outcome State Fault Refusal :=
  .next (s.setReg x (s.reg x &&& s.reg y))

/-- bitwise XOR (R164). -/
def execXorReg (x y : Reg) (s : State) : Host.Outcome State Fault Refusal :=
  .next (s.setReg x (s.reg x ^^^ s.reg y))

/-- ADD (R166). -/
def execAddReg (x y : Reg) (s : State) : Host.Outcome State Fault Refusal :=
  .next (s.setFlagAndResult params.vfWriteOrder x (addFlag (s.reg x) (s.reg y)) (s.reg x + s.reg y))

/-- SUBTRACT, Vx - Vy (R167). -/
def execSub (x y : Reg) (s : State) : Host.Outcome State Fault Refusal :=
  .next (s.setFlagAndResult params.vfWriteOrder x (subFlag (s.reg x) (s.reg y)) (s.reg x - s.reg y))

/-- right-shift (R168): logical, by one bit. -/
def execShr (x y : Reg) (s : State) : Host.Outcome State Fault Refusal :=
  let src := shiftSource params.shiftSource x y s
  .next (s.setFlagAndResult params.vfWriteOrder x (shrFlag src) (src >>> 1))

/-- reverse-subtract, Vy - Vx (R169). -/
def execSubn (x y : Reg) (s : State) : Host.Outcome State Fault Refusal :=
  .next (s.setFlagAndResult params.vfWriteOrder x (subFlag (s.reg y) (s.reg x)) (s.reg y - s.reg x))

/-- left-shift (R170): by one bit. -/
def execShl (x y : Reg) (s : State) : Host.Outcome State Fault Refusal :=
  let src := shiftSource params.shiftSource x y s
  .next (s.setFlagAndResult params.vfWriteOrder x (shlFlag src) (src <<< 1))

/-- random-and (R171): a fresh random byte AND nn; the old Vx is not read. -/
def execRnd (x : Reg) (nn : Byte) (s : State) : Host.Outcome State Fault Refusal :=
  .next ((s.setReg x (s.rand &&& nn)).consumeRand)

end Sys2Proof.Machine
end

