-- ==== Sys2Proof/Machine/Display.lean ====
section
/-! DEFINITION. The display (spec/44_display.md R210 to R213): clear-screen and the sprite blitter. -/

namespace Sys2Proof.Machine

/-- clear-screen (R210). -/
def execCls (s : State) : Host.Outcome State Fault Refusal :=
  .next (s.setFb clearFrame)

/-- `Cell(vx, vy, col, row)` (R212): the column and row a sprite pixel falls on. With `WRAP` each coordinate is reduced
on its own; with `CLIP` the start is reduced and a pixel beyond the edge falls nowhere (D7, log 7). -/
def spriteCell (p : DrawEdge) (vx vy : Byte) (col row : Nat) : Option (Fin 64 × Fin 32) :=
  match p with
  | .wrap => some (⟨(vx.toNat + col) % 64, by omega⟩, ⟨(vy.toNat + row) % 32, by omega⟩)
  | .clip =>
    if h : vx.toNat % 64 + col < 64 ∧ vy.toNat % 32 + row < 32 then
      some (⟨vx.toNat % 64 + col, h.1⟩, ⟨vy.toNat % 32 + row, h.2⟩)
    else none

/-- One sprite bit (R211): bit 7 is column 0; a set bit toggles its cell, and a lit cell it toggles is a collision.
The pair is the framebuffer and whether a collision has happened. -/
def drawPixel (p : DrawEdge) (vx vy : Byte) (row : Nat) (bits : Byte) (a : Frame × Bool) (col : Nat) : Frame × Bool :=
  if bits.getLsbD (7 - col) then
    match spriteCell p vx vy col row with
    | some (px, py) => (toggleCell a.1 px py, a.2 || litAt a.1 px py)
    | none => a
  else a

/-- One sprite row: columns 0 to 7 (R211). -/
def drawRow (p : DrawEdge) (vx vy : Byte) (row : Nat) (bits : Byte) (a : Frame × Bool) : Frame × Bool :=
  (List.range 8).foldl (drawPixel p vx vy row bits) a

/-- The rows of a sprite from row number `row` on (R211). -/
def drawRows (p : DrawEdge) (vx vy : Byte) (row : Nat) : List Byte → Frame × Bool → Frame × Bool
  | [], a => a
  | bits :: rest, a => drawRows p vx vy (row + 1) rest (drawRow p vx vy row bits a)

/-- draw-sprite (R211): the coordinates are read before VF is written; VF is 1 if a lit cell was turned unlit, else 0;
n = 0 reads and draws nothing (D29, log 19). -/
def execDrw (x y : Reg) (n : Nat) (s : State) : Host.Outcome State Fault Refusal :=
  orFatal (.drw x y n) s (loadBytes s s.base n) fun rows =>
    let drawn := drawRows params.drawEdge (s.reg x) (s.reg y) 0 rows (s.fb, false)
    .next ((s.setFb drawn.1).setReg vf (flagByte drawn.2))

end Sys2Proof.Machine
end

