-- ==== Sys2Proof/Machine/Index.lean ====
section
/-! DEFINITION. The index register and the memory transfers (spec/43_index_and_memory.md R190 to R196). -/

namespace Sys2Proof.Machine

/-- set-index (R190). -/
def execLdI (nnn : Addr12) (s : State) : Host.Outcome State Fault Refusal :=
  .next (s.setI (zextAddr nnn))

/-- add-to-index (R191): modulo 2^16 (`I_OVERFLOW_POLICY = WRAP16`, D8, log 8), VF not touched. -/
def execAddIVx (x : Reg) (s : State) : Host.Outcome State Fault Refusal :=
  .next (s.setI (s.i + zextByte (s.reg x)))

/-- index-to-font-glyph (R192): the whole register times 5 (D30, log 20). -/
def execLdFVx (x : Reg) (s : State) : Host.Outcome State Fault Refusal :=
  .next (s.setI (zextByte (s.reg x) * 5))

/-- The hundreds, tens and units digits of a byte, one to a byte (R193). -/
def bcdDigits (a : Byte) : List Byte :=
  [BitVec.ofNat 8 (a.toNat / 100), BitVec.ofNat 8 (a.toNat / 10 % 10), BitVec.ofNat 8 (a.toNat % 10)]

/-- store-BCD (R193): I is unchanged. -/
def execLdBVx (x : Reg) (s : State) : Host.Outcome State Fault Refusal :=
  orFatal (.ldBVx x) s (storeBytes s s.base (bcdDigits (s.reg x))) fun t => .next t

/-- `I <- trunc_16(base + x + 1)`, the advance of register-dump and register-load (R194, R195). -/
def State.advanceI (s : State) (x : Reg) : State := s.setI (BitVec.ofNat 16 (s.base + x.val + 1))

/-- register-dump (R194): V0..Vx to memory at I, then I moves past them. -/
def execLdMemVx (x : Reg) (s : State) : Host.Outcome State Fault Refusal :=
  orFatal (.ldMemVx x) s (storeBytes s s.base (s.firstRegs (x.val + 1))) fun t => .next (t.advanceI x)

/-- register-load (R195): memory at I to V0..Vx, then I moves past the bytes. -/
def execLdVxMem (x : Reg) (s : State) : Host.Outcome State Fault Refusal :=
  orFatal (.ldVxMem x) s (loadBytes s s.base (x.val + 1)) fun bs => .next ((s.loadRegs bs).advanceI x)

end Sys2Proof.Machine
end

