-- ==== Sys2Proof/Machine/KeyTimer.lean ====
section
/-! DEFINITION. The keypad and timer instructions (spec/45_keypad_and_timers.md R230 to R235). -/

namespace Sys2Proof.Machine

/-- skip-if-key-pressed (R230). -/
def execSkp (x : Reg) (s : State) : Host.Outcome State Fault Refusal :=
  orFatal (.skp x) s (keyOperand params.keyIndex x s) fun k => .next (s.skipIf (s.pressed k))

/-- skip-if-key-not-pressed (R231). -/
def execSknp (x : Reg) (s : State) : Host.Outcome State Fault Refusal :=
  orFatal (.sknp x) s (keyOperand params.keyIndex x s) fun k => .next (s.skipIf (!s.pressed k))

/-- await-key (R232): with no key pressed PC goes back to this instruction and nothing else happens; otherwise Vx is
the lowest pressed key. KEY is not changed (C7). -/
def execLdVxK (x : Reg) (s : State) : Host.Outcome State Fault Refusal :=
  match s.lowestKey with
  | none => .next (s.setPc s.pc0)
  | some k => .next (s.setReg x (BitVec.ofNat 8 k.val))

/-- read-delay-timer (R233). -/
def execLdVxDt (x : Reg) (s : State) : Host.Outcome State Fault Refusal :=
  .next (s.setReg x s.dt)

/-- set-delay-timer (R234). -/
def execLdDtVx (x : Reg) (s : State) : Host.Outcome State Fault Refusal :=
  .next (s.setDt (s.reg x))

/-- set-sound-timer (R235). -/
def execLdStVx (x : Reg) (s : State) : Host.Outcome State Fault Refusal :=
  .next (s.setSt (s.reg x))

end Sys2Proof.Machine
end

