-- ==== Sys2Proof/Machine/Step.lean ====
section
/-! DEFINITION. One step of the machine (spec/40_step_cycle.md R120 to R130). -/

namespace Sys2Proof.Machine

/-- `Step()` (R120): a halted machine does nothing (R126); otherwise fetch, advance PC by 2, decode, execute, with the
checks in that order (R127). -/
def step (s : State) : Host.Outcome State Fault Refusal :=
  if s.halt then .next s
  else
    match fetch s with
    | .error c => raiseFatal (.boundsViolation c none s.pc)
    | .ok w =>
      match decode w with
      | .instr i => exec i s.advance
      | .unknownInstruction w => raiseFatal (.unknownInstruction w s.pc)
      | .truncated => raiseFatal (.unknownInstruction w s.pc)   -- `decode` never answers this on a word

/-- `s` with the instruction whose bits are the low `nbits` bits of `w` stored where `step` fetches its next
instruction: its two bytes at PC and PC + 1, high byte first (R66, R90). Bytes beyond the end of memory have no place
to go: such a PC can fetch nothing (R121). -/
def State.withFetchWord (s : State) (nbits w : Nat) : State :=
  if s.pc.toNat + 1 < 4096 then
    s.setMem (Memory.writeBytes s.mem s.pc.toNat (bytesOfWord (tableWord nbits w)))
  else s

end Sys2Proof.Machine
end

