-- ==== Sys2Proof/Machine/Events.lean ====
section
/-! DEFINITION. The transactions of the block besides the plain step (spec/10_state.md R43, spec/00_scope.md R10), and
what each of them, the step included, may turn the machine into. -/

namespace Sys2Proof.Machine

/-- A timer's share of a tick: down by 1 while above 0, never below (R262). -/
def tickTimer (b : Byte) : Byte := if 0 < b.toNat then b - 1 else b

/-- `TimerTick()` (R262): both timers, nothing else. -/
def timerTick (s : State) : State := { s with dt := tickTimer s.dt, st := tickTimer s.st }

/-- `SetKeys(k)` (R264): all 16 flags, nothing else. -/
def setKeys (k : Keys) (s : State) : State := { s with key := k }

/-- `Reset()` (R290): every piece of state the core owns gets its reset value. KEY is an input and not the core's
(R40, D17); the random bytes stay fresh (R35, log 28). -/
def resetCore (s : State) : State := { State.reset with key := s.key, draws := s.draws }

/-- What the loader answers for an image it refuses: `LoadSizeViolation`, kind 3 (R253, R254). -/
inductive LoadError where
  /-- The image is longer than 3584 bytes; raised by `loadImage`, never by a step. Safe: nothing is loaded. -/
  | loadSizeViolation
  deriving DecidableEq, Repr

/-- `LoadImage(bytes)` (R293): the image goes to 0x200 and up; an oversize image is refused and nothing changes. -/
def loadImage (bytes : List Byte) (s : State) : Except LoadError State :=
  if imageFits bytes then .ok (s.setMem (Memory.writeBytes s.mem 0x200 bytes)) else .error .loadSizeViolation

/-- The framebuffer read (R33, R265): cell (px, py). -/
def framebufferView (s : State) (px : Fin 64) (py : Fin 32) : Bool := litAt s.fb px py

/-- The status read (R32, R43): HALT and FAULT. -/
def statusView (s : State) : Bool × Option Fault := (s.halt, s.fault)

/-- What the debug read exposes (R268, D28): V0..VF, I, PC, SP. -/
structure DebugView where
  v  : Vector Byte 16
  i  : Word
  pc : Word
  sp : Fin 17
  deriving DecidableEq, Repr

/-- The debug read (R268). -/
def debugView (s : State) : DebugView := { v := s.v, i := s.i, pc := s.pc, sp := s.sp }

/-- What the agents of R10 do to the block. -/
inductive Event where
  /-- `Reset` by the outside (R290). -/
  | reset
  /-- `LoadImage` by the loader (R293). -/
  | load (bytes : List Byte)
  /-- `Step` by the Driver (R120). -/
  | step
  /-- `TimerTick` by the Driver (R262). -/
  | tick
  /-- `SetKeys` by the input collaborator (R264). -/
  | keys (k : Keys)
  deriving DecidableEq, Repr

/-- `Trans s e t`: event `e` may turn the machine `s` into `t`. A step that raises a fatal condition leaves HALT and
FAULT set, KEY as it is (log 31) and everything else unspecified (R255, D15); every other event has one result. -/
inductive Trans : State → Event → State → Prop where
  | reset (s : State) : Trans s .reset (resetCore s)
  | loaded {s t : State} {bytes : List Byte} (h : loadImage bytes s = .ok t) : Trans s (.load bytes) t
  | loadRefused {s : State} {bytes : List Byte} {e : LoadError} (h : loadImage bytes s = .error e) :
      Trans s (.load bytes) s
  | stepped {s t : State} (h : Machine.step s = .next t) : Trans s .step t
  | stepFaulted {s t : State} {r : Fault} (h : Machine.step s = .fault r) (left : LeftBy s r t) : Trans s .step t
  | ticked (s : State) : Trans s .tick (timerTick s)
  | keysSet (s : State) (k : Keys) : Trans s (.keys k) (setKeys k s)

/-- A run under a schedule of events, in order (R12: any interleaving). -/
inductive Run : State → List Event → State → Prop where
  | done (s : State) : Run s [] s
  | more {s t u : State} {e : Event} {es : List Event} (h : Trans s e t) (rest : Run t es u) : Run s (e :: es) u

/-- The Driver's duty on loading (R271, R292, R293): an image is loaded only between a reset and the first step after
it. `stepping` says whether a step has been made since the last reset. -/
def dutiful : Bool → List Event → Bool
  | _, [] => true
  | _, .reset :: es => dutiful false es
  | stepping, .load _ :: es => !stepping && dutiful stepping es
  | _, .step :: es => dutiful true es
  | stepping, .tick :: es => dutiful stepping es
  | stepping, .keys _ :: es => dutiful stepping es

end Sys2Proof.Machine
end

