-- ==== Sys2Proof/Safety.lean ====
section
/-! DEFINITION. What claims about this machine are stated with: the invariant of spec/10_state.md R41, safe steps, and
the frame of an instruction (what it leaves unchanged). -/

namespace Sys2Proof.Machine

/-- The invariant of R26, R28 and R41 in the terms of this state: memory is in canonical form; FAULT is empty exactly
while HALT is 0; and while HALT is 0, PC is at most 0x10FE and every stack entry in use is at most 0x1000. That SP is
at most 16 and that every value fits its width are facts of the types. -/
structure State.Inv (s : State) : Prop where
  memory : Memory.wf s.mem
  faultRecorded : s.fault.isSome = s.halt
  pcBound : s.halt = false → s.pc.toNat ≤ 0x10FE
  stackBound : s.halt = false → ∀ (k : Nat) (h : k < s.sp.val), (s.stack[k]'(by omega)).toNat ≤ 0x1000

/-- No fatal condition is raised by the step (R255: what a claim about a program shows or assumes). -/
def SafeStep (s : State) : Prop := ∃ t, step s = .next t

/-- Reachable from reset under some schedule of events. -/
def Reachable (s : State) : Prop := ∃ es, Run State.reset es s

/-- The parts of the state a frame may exempt. -/
inductive Part where
  /-- All of V0..VF. -/
  | regs
  | index
  | pc
  /-- SP and STACK. -/
  | stack
  | delay
  | sound
  | memory
  | screen
  | keypad
  /-- HALT and FAULT. -/
  | status
  /-- The model's count of random bytes consumed. -/
  | draws
  deriving DecidableEq, Repr

/-- `t` agrees with `s` on every part not listed: register by register, byte by byte, cell by cell. -/
structure SameBut (parts : List Part) (s t : State) : Prop where
  regs : .regs ∉ parts → ∀ r, t.reg r = s.reg r
  index : .index ∉ parts → t.i = s.i
  pc : .pc ∉ parts → t.pc = s.pc
  stack : .stack ∉ parts → t.sp = s.sp ∧ t.stack = s.stack
  delay : .delay ∉ parts → t.dt = s.dt
  sound : .sound ∉ parts → t.st = s.st
  memory : .memory ∉ parts → ∀ a, Memory.read t.mem a = Memory.read s.mem a
  screen : .screen ∉ parts → ∀ px py, litAt t.fb px py = litAt s.fb px py
  keypad : .keypad ∉ parts → t.key = s.key
  status : .status ∉ parts → t.halt = s.halt ∧ t.fault = s.fault
  draws : .draws ∉ parts → t.draws = s.draws

end Sys2Proof.Machine
end

