-- ==== Sys2Proof/Certificates/Slice0/Obligations.lean ====
section
/-! DEFINITION. The statements for the provers. An instruction's statement is about `exec`, where PC is already the
address after the instruction (R122); `SameBut parts s t` is the frame: everything but the parts listed is unchanged,
register by register, byte by byte, cell by cell. Where a clause rests on a decision of the spec's own (a `D<n>` of
spec/92_eei_decisions.md) or on a choice of the model's (a log entry), the docstring says so. -/

open Sys2Proof Sys2Proof.Machine

/-! ## Decoding and encoding -/

/-- Words written out from the patterns of R95 (30 of the 34 patterns are general knowledge, G1, log 1), one or more of
each of the sixteen families, decode to the instructions they stand for, and two words outside the map (R96, R97) are
unknown. -/
def Obligations.SampleWordsDecode : Prop :=
  decode 0x00E0 = .instr .cls ∧ decode 0x00EE = .instr .ret ∧ decode 0x1ABC = .instr (.jp 0xABC) ∧
  decode 0x2FFF = .instr (.call 0xFFF) ∧ decode 0x3A01 = .instr (.seImm 10 0x01) ∧
  decode 0x4FFE = .instr (.sneImm 15 0xFE) ∧ decode 0x7FFE = .instr (.addImm 15 0xFE) ∧
  decode 0x9AB0 = .instr (.sneReg 10 11) ∧ decode 0xB300 = .instr (.jpV0 0x300) ∧
  decode 0x5120 = .instr (.seReg 1 2) ∧ decode 0x6A7F = .instr (.ldImm 10 0x7F) ∧
  decode 0x8AB7 = .instr (.subn 10 11) ∧ decode 0x8ABE = .instr (.shl 10 11) ∧ decode 0xA2F0 = .instr (.ldI 0x2F0) ∧
  decode 0xC30F = .instr (.rnd 3 0x0F) ∧ decode 0xD12A = .instr (.drw 1 2 10) ∧ decode 0xE29E = .instr (.skp 2) ∧
  decode 0xFF65 = .instr (.ldVxMem 15) ∧ decode 0x0000 = .unknownInstruction 0x0000 ∧
  decode 0x8008 = .unknownInstruction 0x8008

/-- R91, the six fields: `kind` is the top nibble in place, and each other field is the word under the source's mask,
shifted down. -/
def Obligations.FieldsAreTheMaskedBits : Prop :=
  ∀ w : Word,
    fieldKind w = w &&& 0xF000 ∧ (fieldOp w).toNat = (fieldKind w).toNat / 4096 ∧
    (fieldX w).val = ((w &&& 0x0F00) >>> 8).toNat ∧ (fieldY w).val = ((w &&& 0x00F0) >>> 4).toNat ∧
    (fieldN w).toNat = (w &&& 0x000F).toNat ∧ (fieldNN w).toNat = (w &&& 0x00FF).toNat ∧
    (fieldNNN w).toNat = (w &&& 0x0FFF).toNat

/-- Decoding the word of a well-formed instruction gives the instruction back, every operand included. -/
def Obligations.DecodeOfEncodeIsTheInstruction : Prop :=
  ∀ i : Instr, i.WellFormed → decode (encode i) = .instr i

/-- The other direction: a word that decodes is the encoding of what it decodes to, so no bit of it is dropped. -/
def Obligations.EncodeOfDecodeIsTheWord : Prop :=
  ∀ (w : Word) (i : Instr), decode w = .instr i → i.WellFormed ∧ encode i = w

/-- R94 and R95 (strict matching is the decision D2, log 3): a word decodes to an instruction exactly when one row of the
opcode map, and only one, has its fixed bits, and it is that row's instruction; a word no row matches is unknown. -/
def Obligations.DecodeSelectsTheOneMatchingRow : Prop :=
  ∀ w : Word,
    (∀ i, decode w = .instr i → (opcodeTable.filter (fun r => r.matchesWord w)).map (fun r => r.mnemonic) = [i.mnemonic]) ∧
    (decode w = .unknownInstruction w ↔ ∀ r ∈ opcodeTable, r.matchesWord w = false) ∧
    ((∃ i, decode w = .instr i) ∨ decode w = .unknownInstruction w)

/-! ## The step -/

/-- R122: after a successful fetch, and before the decoded instruction runs, PC is advanced by 2, for every instruction;
the 16-bit PC does not overflow. This is what carries the statements about `exec` to a step. -/
def Obligations.StepRunsTheDecodedInstruction : Prop :=
  ∀ (s : State) (w : Word) (i : Instr), s.halt = false → fetch s = .ok w → decode w = .instr i →
    step s = exec i (s.setPc (s.pc + 2)) ∧ (s.pc + 2).toNat = s.pc.toNat + 2

/-- R121 and R66: the word at PC is composed big-endian of two bytes; if PC + 1 is outside memory the step raises
the fetch bounds violation for that address (R252, R255) and executes nothing. That the record holds a sub-cause and
the address is the decision D14 (log 12). -/
def Obligations.FetchIsBigEndianAndBounded : Prop :=
  ∀ s : State,
    (s.pc.toNat + 1 < 4096 → ∃ w, fetch s = .ok w ∧
      w.toNat = 256 * (Memory.read s.mem s.pc.toNat).toNat + (Memory.read s.mem (s.pc.toNat + 1)).toNat) ∧
    (4096 ≤ s.pc.toNat + 1 → fetch s = .error .fetch ∧
      (s.halt = false → ∃ r, step s = .fault r ∧ r.subCause = some .fetch ∧ r.pc0 = s.pc))

/-- R251: a fetched word that matches no row raises `UnknownInstruction` with the word and, by the spec's choice (D14,
log 12), the address it was fetched from; it depends on nothing but the word. -/
def Obligations.UnknownWordIsFatal : Prop :=
  ∀ (s : State) (w : Word), s.halt = false → fetch s = .ok w → (∀ r ∈ opcodeTable, r.matchesWord w = false) →
    step s = .fault (.unknownInstruction w s.pc)

/-- R126 (the decision D15, log 13): a step of a halted machine changes nothing. -/
def Obligations.HaltedStepChangesNothing : Prop :=
  ∀ s : State, s.halt = true → step s = .next s

/-- The raising sites of R252, instruction by instruction: the bounds violation an instruction meets in a state. The
key numbers are the decision D10 (log 9), the names of the sub-causes D14 (log 12). -/
def Sys2Proof.Machine.boundsCauseOf (i : Instr) (s : State) : Option BoundsCause :=
  match i with
  | .ret => if s.sp.val = 0 then some .stackUnderflow else none
  | .call _ => if s.sp.val = 16 then some .stackOverflow else none
  | .drw _ _ n => if 0 < n ∧ 4096 ≤ s.i.toNat + n - 1 then some (.memRead (s.i.toNat + n - 1)) else none
  | .ldBVx _ => if 4096 ≤ s.i.toNat + 2 then some (.memWrite (s.i.toNat + 2)) else none
  | .ldMemVx x => if 4096 ≤ s.i.toNat + x.val then some (.memWrite (s.i.toNat + x.val)) else none
  | .ldVxMem x => if 4096 ≤ s.i.toNat + x.val then some (.memRead (s.i.toNat + x.val)) else none
  | .skp x => if 15 < (s.reg x).toNat then some (.keyIndex (s.reg x)) else none
  | .sknp x => if 15 < (s.reg x).toNat then some (.keyIndex (s.reg x)) else none
  | _ => none

/-- R252, "No other instruction can raise it": an instruction raises a bounds violation exactly where the table says,
with the record of R255, and in every other state it completes with a next state. So no instruction is ever refused. -/
def Obligations.InstructionsFaultExactlyWhereListed : Prop :=
  ∀ (i : Instr) (s : State),
    (∀ c, boundsCauseOf i s = some c → exec i s = .fault (.boundsViolation c (some (encode i)) s.pc0)) ∧
    (boundsCauseOf i s = none → ∃ t, exec i s = .next t)

/-- R255 and R257 (the record's fields are the decision D14, log 12): the record of a fatal step names the address the
step fetched or tried to fetch from, and the word if one was fetched. -/
def Obligations.FaultRecordNamesAddressAndWord : Prop :=
  ∀ (s : State) (r : Fault), step s = .fault r →
    r.pc0 = s.pc ∧ (∀ w, fetch s = .ok w → r.word = some w) ∧ ((∃ c, fetch s = .error c) → r.word = none)

/-- R34 and R38: no step that completes writes KEY, HALT or FAULT, and no step at all writes KEY (for a fatal step this
is the model's reading of R34 beside D15, log 31). -/
def Obligations.StepWritesNoKeyAndNoStatus : Prop :=
  (∀ s t : State, step s = .next t → t.key = s.key ∧ t.halt = s.halt ∧ t.fault = s.fault) ∧
  (∀ s t : State, Trans s .step t → t.key = s.key)

/-- Who writes what (R22, R23, R27, R29, R30, R33, R38, R39): I only the five instructions of R23, SP and STACK only
call and return, DT only set-delay-timer, ST only set-sound-timer, FB only clear-screen and draw-sprite, MEM only
store-BCD and register-dump. The count of random bytes, the model's own (log 11), moves only in random-and. -/
def Obligations.OnlyTheNamedInstructionsWrite : Prop :=
  ∀ (i : Instr) (s t : State), exec i s = .next t →
    (i.mnemonic ∈ ["LD_I", "ADD_I_VX", "LD_F_VX", "LD_MEM_VX", "LD_VX_MEM"] ∨ t.i = s.i) ∧
    (i.mnemonic ∈ ["CALL", "RET"] ∨ (t.sp = s.sp ∧ t.stack = s.stack)) ∧
    (i.mnemonic = "LD_DT_VX" ∨ t.dt = s.dt) ∧ (i.mnemonic = "LD_ST_VX" ∨ t.st = s.st) ∧
    (i.mnemonic ∈ ["CLS", "DRW"] ∨ t.fb = s.fb) ∧ (i.mnemonic ∈ ["LD_B_VX", "LD_MEM_VX"] ∨ t.mem = s.mem) ∧
    (i.mnemonic = "RND" ∨ t.draws = s.draws)

/-- The column "Writes" of R22: the general registers an instruction may write. -/
def Sys2Proof.Machine.mayWriteReg (i : Instr) (r : Reg) : Bool :=
  match i with
  | .ldImm x _ | .addImm x _ | .ldReg x _ | .orReg x _ | .andReg x _ | .xorReg x _ | .rnd x _ | .ldVxDt x | .ldVxK x => r == x
  | .addReg x _ | .sub x _ | .subn x _ | .shr x _ | .shl x _ => r == x || r == 15
  | .drw _ _ _ => r == 15
  | .ldVxMem x => r ≤ x
  | _ => false

/-- R22 and R37: an instruction writes no general register but those of its row, and VF as a flag only in the six
instructions R37 lists. -/
def Obligations.OnlyTheListedRegistersAreWritten : Prop :=
  ∀ (i : Instr) (s t : State), exec i s = .next t → ∀ r, mayWriteReg i r = false → t.reg r = s.reg r

/-- The table of R25: PC after a step that completes, from the state before it (`pc0` = PC), as a number. For a skip on
a key the key number is in range, since the step completes. -/
def Sys2Proof.Machine.pcAfter (i : Instr) (s : State) : Nat :=
  match i with
  | .ret => if h : 0 < s.sp.val then (s.stack[s.sp.val - 1]'(by omega)).toNat else 0
  | .jp nnn => nnn.toNat
  | .call nnn => nnn.toNat
  | .jpV0 nnn => nnn.toNat + (s.reg 0).toNat
  | .seImm x nn => if s.reg x = nn then s.pc.toNat + 4 else s.pc.toNat + 2
  | .sneImm x nn => if s.reg x ≠ nn then s.pc.toNat + 4 else s.pc.toNat + 2
  | .seReg x y => if s.reg x = s.reg y then s.pc.toNat + 4 else s.pc.toNat + 2
  | .sneReg x y => if s.reg x ≠ s.reg y then s.pc.toNat + 4 else s.pc.toNat + 2
  | .skp x => if s.key.getLsbD (s.reg x).toNat then s.pc.toNat + 4 else s.pc.toNat + 2
  | .sknp x => if s.key.getLsbD (s.reg x).toNat then s.pc.toNat + 2 else s.pc.toNat + 4
  | .ldVxK _ => if s.key = 0 then s.pc.toNat else s.pc.toNat + 2
  | _ => s.pc.toNat + 2

/-- R25: how each instruction leaves PC, nothing wrapping, and what call pushes. -/
def Obligations.PcAfterEachInstruction : Prop :=
  ∀ (s t : State) (w : Word) (i : Instr), s.halt = false → fetch s = .ok w → decode w = .instr i → step s = .next t →
    t.pc.toNat = pcAfter i s ∧
    (∀ (nnn : Addr12) (h : s.sp.val < 16), i = .call nnn → t.stack[s.sp.val].toNat = s.pc.toNat + 2)

/-! ## Invariants and runs -/

/-- The invariant holds at reset. Its bounds on PC and on the stack are R26, R28 and R41; that FAULT is recorded exactly
while halted is R32 and R40 with the decision D14 (log 12); the canonical form of memory is the model's own
representation (log 24). -/
def Obligations.ResetMeetsTheInvariant : Prop := State.reset.Inv

/-- Every step that completes keeps the invariant: while running, PC is at most 0x10FE and every stack entry in use at
most 0x1000 (R26, R28, R41); FAULT is recorded exactly while halted (R32 with D14, log 12); memory is in canonical form
(the model's own representation, log 24). -/
def Obligations.StepKeepsTheInvariant : Prop :=
  ∀ s t : State, s.Inv → step s = .next t → t.Inv

/-- Every event keeps the invariant, from every state that meets it: resets, loads (before or after stepping), steps
that complete and fatal ones, ticks and key changes. The bounds are R26, R28 and R41, the FAULT clause R32 with D14 (log
12), the canonical form of memory the model's own (log 24), in what a fatal step leaves as well (D15, log 12). -/
def Obligations.EveryEventKeepsTheInvariant : Prop :=
  ∀ (s t : State) (e : Event), s.Inv → Trans s e t → t.Inv

/-- R32, R126, R256 (D15, log 13): whatever the agents do, a halted machine stays halted and keeps its first fault until
a reset. -/
def Obligations.HaltedUntilReset : Prop :=
  ∀ (s t : State) (es : List Event), s.halt = true → Run s es t → .reset ∉ es → t.halt = true ∧ t.fault = s.fault

/-- R40 and R290: what reset leaves, in `State.reset` and after the `Reset` transaction on any machine. The framebuffer
is D17 (log 14), HALT and FAULT D14 (log 12), the font bytes general knowledge (G2, log 2); that the transaction keeps
KEY, which the core does not own, is D17 and the model's reading of it (log 28). -/
def Obligations.ResetLeavesTheResetValues : Prop :=
  ∀ s t : State, t = State.reset ∨ t = resetCore s →
    (∀ r, t.reg r = 0) ∧ t.i = 0 ∧ t.pc = 0x0200 ∧ t.sp = 0 ∧ (∀ k : Fin 16, t.stack[k] = 0) ∧ t.dt = 0 ∧ t.st = 0 ∧
    (∀ a, a < 80 → fontPatterns[a]? = some (Memory.read t.mem a)) ∧
    (∀ a, 80 ≤ a → Memory.read t.mem a = 0) ∧ (∀ px py, litAt t.fb px py = false) ∧ t.halt = false ∧ t.fault = none ∧
    (t = resetCore s → t.key = s.key)

/-! ## Memory -/

/-- R65, R193, R194 and R196: a block store succeeds exactly when it is empty or its last byte lies below 4096 (one byte is
R65's `MemWrite`); afterwards each byte of the block reads as stored, every other byte as before, and nothing else has
changed. Otherwise it is the bounds violation of a memory write at the last address: R193 and R194 check that address
before any byte moves, which is the decision D24 (log 18; the sub-cause's name is D14, log 12). -/
def Obligations.StoreWritesItsBytesAndNoOther : Prop :=
  ∀ (s : State) (base : Nat) (bs : List Byte),
    ((bs = [] ∨ base + bs.length ≤ 4096) → ∃ t, storeBytes s base bs = .ok t ∧
      (∀ k (h : k < bs.length), Memory.read t.mem (base + k) = bs[k]) ∧
      (∀ a, a < base ∨ base + bs.length ≤ a → Memory.read t.mem a = Memory.read s.mem a) ∧ SameBut [.memory] s t) ∧
    (bs ≠ [] → 4096 < base + bs.length → storeBytes s base bs = .error (.memWrite (base + bs.length - 1)))

/-- Two memories in canonical form that read the same at every address below 4096 are the same data. -/
def Obligations.CanonicalMemoriesAreEqualByReads : Prop :=
  ∀ m n : Memory, Memory.wf m → Memory.wf n → (∀ a, a < 4096 → Memory.read m a = Memory.read n a) → m = n

/-- The byte at `a` after the bytes `bs` are stored from `base` up over `m`. -/
def Sys2Proof.Machine.byteAfterStore (m : Memory) (base : Nat) (bs : List Byte) (a : Nat) : Byte :=
  if base ≤ a then (bs[a - base]?).getD (Memory.read m a) else Memory.read m a

/-- R72: the next fetch sees what a store put at PC, with nothing in between, be it both bytes of the word, one of them
(program P7) or none. -/
def Obligations.FetchSeesTheLastStore : Prop :=
  ∀ (s t u : State) (base : Nat) (bs : List Byte), storeBytes s base bs = .ok t → u.mem = t.mem →
    u.pc.toNat + 1 < 4096 →
      fetch u = .ok (wordOfBytes (byteAfterStore s.mem base bs u.pc.toNat) (byteAfterStore s.mem base bs (u.pc.toNat + 1)))

/-! ## The other agents -/

/-- R262 (one tick for both timers is D22, log 21): each timer goes down by 1 while above 0 and stays at 0 otherwise;
nothing else changes. -/
def Obligations.TickCountsBothTimersDown : Prop :=
  ∀ s : State, (timerTick s).dt.toNat = s.dt.toNat - 1 ∧ (timerTick s).st.toNat = s.st.toNat - 1 ∧
    SameBut [.delay, .sound] s (timerTick s)

/-- R264: `SetKeys` sets the 16 flags to any values, and nothing else. -/
def Obligations.SetKeysSetsTheFlagsOnly : Prop :=
  ∀ (s : State) (k : Keys), (∀ j : Fin 16, (setKeys k s).pressed j = k.getLsbD j) ∧ SameBut [.keypad] s (setKeys k s)

/-- R293: an image of at most 3584 bytes is placed at 0x200, byte i at 0x200 + i, and nothing else changes; a longer one
is refused; an empty one is allowed, and after a reset the first step then raises the unknown word 0x0000 (that the
record holds the address 0x0200 is D14, log 12); and a schedule that loads when stepping has begun breaks the Driver's
duty (R271; that R293's "not available" is such a duty is the model's reading, DEDUCED, log 23). -/
def Obligations.LoadPlacesTheImage : Prop :=
  ∀ (s : State) (bytes : List Byte),
    (bytes.length ≤ 3584 → ∃ t, loadImage bytes s = .ok t ∧
      (∀ k (h : k < bytes.length), Memory.read t.mem (0x200 + k) = bytes[k]) ∧
      (∀ a, a < 0x200 ∨ 0x200 + bytes.length ≤ a → Memory.read t.mem a = Memory.read s.mem a) ∧ SameBut [.memory] s t) ∧
    (3584 < bytes.length → loadImage bytes s = .error .loadSizeViolation) ∧
    (∃ t, loadImage [] (resetCore s) = .ok t ∧ step t = .fault (.unknownInstruction 0x0000 0x0200)) ∧
    (∀ es, dutiful true (.load bytes :: es) = false)

/-- R253: an oversize image is rejected and no state changes. The second clause, that no step raises this condition
(kind 3 by the numbering of R254, D14, log 12), holds by the form of the model's `Fault`, which has no such record; the
first clause is what the statement says of loading. -/
def Obligations.OversizeImageIsRejected : Prop :=
  ∀ (s t : State) (bytes : List Byte), 3584 < bytes.length → Trans s (.load bytes) t →
    t = s ∧ ∀ (u : State) (r : Fault), step u = .fault r → r.kind ≠ 3

/-- R291 with R293: after a reset and a load of any image, an empty or one-byte one included, PC is 0x0200 and SP is 0;
the first fetch reads the image's first two bytes, high byte first, a byte the image lacks being 0; and an image that
begins with a return makes the first step a stack underflow. The address in the record is D14 (log 12). -/
def Obligations.FirstFetchIsAtProgramStart : Prop :=
  ∀ (s t : State) (bytes : List Byte), loadImage bytes (resetCore s) = .ok t →
    t.pc = 0x0200 ∧ t.sp = 0 ∧ fetch t = .ok (wordOfBytes (bytes.getD 0 0) (bytes.getD 1 0)) ∧
    (bytes.getD 0 0 = 0x00 → bytes.getD 1 0 = 0xEE →
      ∃ r, step t = .fault r ∧ r.subCause = some .stackUnderflow ∧ r.pc0 = 0x0200)

/-! ## Control transfer -/

/-- R140: the word `00EE` is return; it pops the most recent address into PC and changes nothing else, the contents of
STACK included (R28: an entry at or above SP keeps its old contents; D19, log 16); the popped address is not checked, so
one above 4094 makes the next fetch a bounds violation; at SP = 0 it is a stack underflow. -/
def Obligations.ReturnPopsTheStack : Prop :=
  decode 0x00EE = .instr .ret ∧
  ∀ s : State,
    (∀ h : 0 < s.sp.val, ∃ t, exec .ret s = .next t ∧ t.sp.val = s.sp.val - 1 ∧
      t.pc = s.stack[s.sp.val - 1]'(by omega) ∧ t.stack = s.stack ∧ SameBut [.pc, .stack] s t ∧
      (4094 < t.pc.toNat → fetch t = .error .fetch)) ∧
    (s.sp.val = 0 → ∃ r, exec .ret s = .fault r ∧ r.subCause = some .stackUnderflow)

/-- R141: every word `1NNN` is a jump; it sets PC to NNN exactly, whatever PC was, and changes nothing else; a jump to
0xFFF makes the next fetch a bounds violation; a jump to its own address changes no state. -/
def Obligations.JumpSetsPcExactly : Prop :=
  (∀ nnn : Addr12, decode (0x1000 ||| zextAddr nnn) = .instr (.jp nnn)) ∧
  (∀ (nnn : Addr12) (s : State), ∃ t, exec (.jp nnn) s = .next t ∧ t.pc.toNat = nnn.toNat ∧ SameBut [.pc] s t) ∧
  (∀ s : State, s.pc = 0xFFF → fetch s = .error .fetch) ∧
  (∀ (s : State) (w : Word) (nnn : Addr12), s.halt = false → fetch s = .ok w → decode w = .instr (.jp nnn) →
    zextAddr nnn = s.pc → step s = .next s)

/-- R142 (the entry's width is D18, log 16): call pushes the return address, PC as it stands, and jumps; at SP = 16 it
is a stack overflow. -/
def Obligations.CallPushesTheReturnAddress : Prop :=
  ∀ (nnn : Addr12) (s : State),
    (∀ h : s.sp.val < 16, ∃ t, exec (.call nnn) s = .next t ∧ t.sp.val = s.sp.val + 1 ∧ t.stack[s.sp.val] = s.pc ∧
      (∀ k : Fin 16, k.val ≠ s.sp.val → t.stack[k] = s.stack[k]) ∧ t.pc.toNat = nnn.toNat ∧ SameBut [.pc, .stack] s t) ∧
    (s.sp.val = 16 → ∃ r, exec (.call nnn) s = .fault r ∧ r.subCause = some .stackOverflow)

/-- The source's property S3: whatever happens between, nested calls included, if SP and the stack entries below it are
again as the call left them, a return brings PC back to the address after the call and SP to its depth before it. -/
def Obligations.ReturnUndoesCall : Prop :=
  ∀ (nnn : Addr12) (s t u : State), exec (.call nnn) s = .next t → u.sp = t.sp →
    (∀ k : Fin 16, k.val < t.sp.val → u.stack[k] = t.stack[k]) →
    ∃ v, exec .ret u = .next v ∧ v.pc = s.pc ∧ v.sp = s.sp

/-- R143: jump-with-offset adds V0, always V0, to NNN and does not reduce the sum to 12 bits. -/
def Obligations.JumpWithOffsetAddsV0 : Prop :=
  ∀ (nnn : Addr12) (s : State), ∃ t, exec (.jpV0 nnn) s = .next t ∧ t.pc.toNat = nnn.toNat + (s.reg 0).toNat ∧
    SameBut [.pc] s t

/-- R144 to R147 with R148: each compare skip adds a further 2 to PC exactly when its condition holds, and changes
nothing else. -/
def Obligations.CompareSkipsAddTwo : Prop :=
  ∀ (x y : Reg) (nn : Byte) (s : State),
    (∃ t, exec (.seImm x nn) s = .next t ∧ t.pc = (if s.reg x = nn then s.pc + 2 else s.pc) ∧ SameBut [.pc] s t) ∧
    (∃ t, exec (.sneImm x nn) s = .next t ∧ t.pc = (if s.reg x = nn then s.pc else s.pc + 2) ∧ SameBut [.pc] s t) ∧
    (∃ t, exec (.seReg x y) s = .next t ∧ t.pc = (if s.reg x = s.reg y then s.pc + 2 else s.pc) ∧ SameBut [.pc] s t) ∧
    (∃ t, exec (.sneReg x y) s = .next t ∧ t.pc = (if s.reg x = s.reg y then s.pc else s.pc + 2) ∧ SameBut [.pc] s t)

/-! ## Immediate and register ALU -/

/-- R158: every word `6XNN` is load-immediate; it puts NN into Vx, x = 15 included, and changes nothing else; after one
step Vx is NN and PC is 2 further. -/
def Obligations.LoadImmediateSetsVx : Prop :=
  (∀ (x : Reg) (nn : Byte), decode (0x6000 ||| BitVec.ofNat 16 (256 * x.val) ||| zextByte nn) = .instr (.ldImm x nn)) ∧
  (∀ (x : Reg) (nn : Byte) (s : State), ∃ t, exec (.ldImm x nn) s = .next t ∧ t.reg x = nn ∧
    (∀ r, r ≠ x → t.reg r = s.reg r) ∧ SameBut [.regs] s t) ∧
  (∀ (x : Reg) (nn : Byte) (s : State) (w : Word), s.halt = false → fetch s = .ok w → decode w = .instr (.ldImm x nn) →
    ∃ t, step s = .next t ∧ t.reg x = nn ∧ t.pc.toNat = s.pc.toNat + 2)

/-- R159: add-immediate wraps modulo 256 and never writes VF as a flag. -/
def Obligations.AddImmediateWrapsWithoutFlag : Prop :=
  ∀ (x : Reg) (nn : Byte) (s : State), ∃ t, exec (.addImm x nn) s = .next t ∧
    (t.reg x).toNat = ((s.reg x).toNat + nn.toNat) % 256 ∧ (∀ r, r ≠ x → t.reg r = s.reg r) ∧ SameBut [.regs] s t

/-- R161 to R164: assign, OR, AND and XOR write Vx, bit by bit for the three, and leave VF alone unless x = 15. -/
def Obligations.AssignAndLogicWriteVxOnly : Prop :=
  ∀ (x y : Reg) (s : State),
    (∃ t, exec (.ldReg x y) s = .next t ∧ t.reg x = s.reg y ∧ (∀ r, r ≠ x → t.reg r = s.reg r) ∧ SameBut [.regs] s t) ∧
    (∃ t, exec (.orReg x y) s = .next t ∧
      (∀ j, j < 8 → (t.reg x).getLsbD j = ((s.reg x).getLsbD j || (s.reg y).getLsbD j)) ∧
      (∀ r, r ≠ x → t.reg r = s.reg r) ∧ SameBut [.regs] s t) ∧
    (∃ t, exec (.andReg x y) s = .next t ∧
      (∀ j, j < 8 → (t.reg x).getLsbD j = ((s.reg x).getLsbD j && (s.reg y).getLsbD j)) ∧
      (∀ r, r ≠ x → t.reg r = s.reg r) ∧ SameBut [.regs] s t) ∧
    (∃ t, exec (.xorReg x y) s = .next t ∧
      (∀ j, j < 8 → (t.reg x).getLsbD j = ((s.reg x).getLsbD j ^^ (s.reg y).getLsbD j)) ∧
      (∀ r, r ≠ x → t.reg r = s.reg r) ∧ SameBut [.regs] s t)

/-- R166, and for x = 15 the decision D5 (log 5): ADD puts the sum modulo 256 into Vx and, when x is not 15, into VF
whether the exact sum exceeds 255; both from the old operands, y = 15 included. -/
def Obligations.AddSetsCarry : Prop :=
  ∀ (x y : Reg) (s : State), ∃ t, exec (.addReg x y) s = .next t ∧
    (t.reg x).toNat = ((s.reg x).toNat + (s.reg y).toNat) % 256 ∧
    (x ≠ 15 → t.reg 15 = if 255 < (s.reg x).toNat + (s.reg y).toNat then 1 else 0) ∧
    (∀ r, r ≠ x → r ≠ 15 → t.reg r = s.reg r) ∧ SameBut [.regs] s t

/-- R167 and R169 (equal operands: C2, D6, log 6; x = 15: D5, log 5): SUB and SUBN put the difference modulo 256 into Vx
and, when x is not 15, into VF whether the minuend is strictly greater. -/
def Obligations.SubtractionsSetStrictlyGreater : Prop :=
  ∀ (x y : Reg) (s : State),
    (∃ t, exec (.sub x y) s = .next t ∧ (t.reg x).toNat = ((s.reg x).toNat + 256 - (s.reg y).toNat) % 256 ∧
      (x ≠ 15 → t.reg 15 = if (s.reg y).toNat < (s.reg x).toNat then 1 else 0) ∧
      (∀ r, r ≠ x → r ≠ 15 → t.reg r = s.reg r) ∧ SameBut [.regs] s t) ∧
    (∃ t, exec (.subn x y) s = .next t ∧ (t.reg x).toNat = ((s.reg y).toNat + 256 - (s.reg x).toNat) % 256 ∧
      (x ≠ 15 → t.reg 15 = if (s.reg x).toNat < (s.reg y).toNat then 1 else 0) ∧
      (∀ r, r ≠ x → r ≠ 15 → t.reg r = s.reg r) ∧ SameBut [.regs] s t)

/-- R168 and R170 (the source is Vx by D4, log 4; x = 15 by D5, log 5): the shifts halve and double Vx, and put the bit
shifted out into VF when x is not 15; y does not matter. -/
def Obligations.ShiftsSetTheBitShiftedOut : Prop :=
  ∀ (x y : Reg) (s : State),
    (∃ t, exec (.shr x y) s = .next t ∧ (t.reg x).toNat = (s.reg x).toNat / 2 ∧
      (x ≠ 15 → (t.reg 15).toNat = (s.reg x).toNat % 2) ∧
      (∀ r, r ≠ x → r ≠ 15 → t.reg r = s.reg r) ∧ SameBut [.regs] s t) ∧
    (∃ t, exec (.shl x y) s = .next t ∧ (t.reg x).toNat = (s.reg x).toNat * 2 % 256 ∧
      (x ≠ 15 → (t.reg 15).toNat = (s.reg x).toNat / 128) ∧
      (∀ r, r ≠ x → r ≠ 15 → t.reg r = s.reg r) ∧ SameBut [.regs] s t)

/-- D5's own remark: the two orders of the flag write and the result write differ only when x = 15. -/
def Obligations.WriteOrderMattersOnlyForVf : Prop :=
  ∀ (s : State) (x : Reg) (flag result : Byte), x ≠ 15 →
    s.setFlagAndResult .flagThenResult x flag result = s.setFlagAndResult .resultThenFlag x flag result

/-- R171: random-and puts the next random byte AND NN into Vx, whatever that byte is (the free value of log 11, here
`Config.rand8`), so the result has no bit outside NN; the next draw is another one. -/
def Obligations.RandomAndMasksAFreshByte : Prop :=
  ∀ (x : Reg) (nn : Byte) (s : State), ∃ t, exec (.rnd x nn) s = .next t ∧ t.reg x = Config.rand8 s.draws &&& nn ∧
    t.reg x &&& ~~~nn = 0 ∧ t.draws = s.draws + 1 ∧ (∀ r, r ≠ x → t.reg r = s.reg r) ∧ SameBut [.regs, .draws] s t

/-! ## Index register and memory -/

/-- R190 to R192 (the wrap of add-to-index is D8, log 8; index-to-font-glyph above 15 is D30, log 20): the three
instructions that set I without touching memory. -/
def Obligations.IndexInstructionsSetI : Prop :=
  ∀ (nnn : Addr12) (x : Reg) (s : State),
    (∃ t, exec (.ldI nnn) s = .next t ∧ t.i.toNat = nnn.toNat ∧ SameBut [.index] s t) ∧
    (∃ t, exec (.addIVx x) s = .next t ∧ t.i.toNat = (s.i.toNat + (s.reg x).toNat) % 65536 ∧ SameBut [.index] s t) ∧
    (∃ t, exec (.ldFVx x) s = .next t ∧ t.i.toNat = 5 * (s.reg x).toNat ∧ SameBut [.index] s t)

/-- R193: store-BCD writes the three decimal digits of Vx, one to a byte, the hundreds first, at I, I + 1 and I + 2, and
nothing else; if I + 2 is outside memory it is a bounds violation. -/
def Obligations.StoreBcdWritesThreeDigits : Prop :=
  ∀ (x : Reg) (s : State),
    (s.i.toNat + 2 < 4096 → ∃ t, exec (.ldBVx x) s = .next t ∧
      100 * (Memory.read t.mem s.i.toNat).toNat + 10 * (Memory.read t.mem (s.i.toNat + 1)).toNat +
        (Memory.read t.mem (s.i.toNat + 2)).toNat = (s.reg x).toNat ∧
      (Memory.read t.mem s.i.toNat).toNat ≤ 2 ∧ (Memory.read t.mem (s.i.toNat + 1)).toNat ≤ 9 ∧
      (Memory.read t.mem (s.i.toNat + 2)).toNat ≤ 9 ∧
      (∀ a, a < s.i.toNat ∨ s.i.toNat + 3 ≤ a → Memory.read t.mem a = Memory.read s.mem a) ∧ SameBut [.memory] s t) ∧
    (4096 ≤ s.i.toNat + 2 → ∃ r, exec (.ldBVx x) s = .fault r ∧ r.subCause = some (.memWrite (s.i.toNat + 2)))

/-- R194: register-dump stores V0..Vx from I up, every other byte keeps its value, and I moves past them; if I + x is
outside memory it is a bounds violation. -/
def Obligations.RegisterDumpStoresAndAdvances : Prop :=
  ∀ (x : Reg) (s : State),
    (s.i.toNat + x.val < 4096 → ∃ t, exec (.ldMemVx x) s = .next t ∧
      (∀ r : Reg, r ≤ x → Memory.read t.mem (s.i.toNat + r.val) = s.reg r) ∧
      (∀ a, a < s.i.toNat ∨ s.i.toNat + x.val < a → Memory.read t.mem a = Memory.read s.mem a) ∧
      t.i.toNat = s.i.toNat + x.val + 1 ∧ SameBut [.memory, .index] s t) ∧
    (4096 ≤ s.i.toNat + x.val → ∃ r, exec (.ldMemVx x) s = .fault r ∧ r.subCause = some (.memWrite (s.i.toNat + x.val)))

/-- R195: register-load fills V0..Vx from memory at I up, the registers above Vx keep their values, and I moves past the
bytes; if I + x is outside memory it is a bounds violation. -/
def Obligations.RegisterLoadFillsAndAdvances : Prop :=
  ∀ (x : Reg) (s : State),
    (s.i.toNat + x.val < 4096 → ∃ t, exec (.ldVxMem x) s = .next t ∧
      (∀ r : Reg, r ≤ x → t.reg r = Memory.read s.mem (s.i.toNat + r.val)) ∧
      (∀ r : Reg, x < r → t.reg r = s.reg r) ∧
      t.i.toNat = s.i.toNat + x.val + 1 ∧ SameBut [.regs, .index] s t) ∧
    (4096 ≤ s.i.toNat + x.val → ∃ r, exec (.ldVxMem x) s = .fault r ∧ r.subCause = some (.memRead (s.i.toNat + x.val)))

/-- The source's property S9: a dump, and later a load of the same x with the same memory and I set back, restores
V0..Vx exactly, and I is advanced by x + 1 each time. -/
def Obligations.LoadRestoresWhatDumpStored : Prop :=
  ∀ (x : Reg) (s t u v : State), exec (.ldMemVx x) s = .next t → u.mem = t.mem → u.i = s.i →
    exec (.ldVxMem x) u = .next v →
    (∀ r : Reg, r ≤ x → v.reg r = s.reg r) ∧ t.i.toNat = s.i.toNat + x.val + 1 ∧ v.i.toNat = u.i.toNat + x.val + 1

/-! ## Display -/

/-- R210: clear-screen unlights every cell and changes nothing else, VF included. -/
def Obligations.ClearScreenUnlightsEveryCell : Prop :=
  ∀ s : State, ∃ t, exec .cls s = .next t ∧ (∀ px py, litAt t.fb px py = false) ∧ SameBut [.screen] s t

/-- The sprite covers the cell (px, py) with a set bit: the cell's distance from the sprite's corner, around the edges
(`WRAP`, D7, log 7), is a column below 8 and a row below n, and that bit of the sprite in memory is 1, bit 7 being the
leftmost column (R211, R212). -/
def Sys2Proof.Machine.spriteCovers (s : State) (x y : Reg) (n : Nat) (px : Fin 64) (py : Fin 32) : Bool :=
  let col := (px.val + 64 - (s.reg x).toNat % 64) % 64
  let row := (py.val + 32 - (s.reg y).toNat % 32) % 32
  decide (col < 8 ∧ row < n) && (Memory.read s.mem (s.i.toNat + row)).getLsbD (7 - col)

/-- R211 and R212 (edges: D7, log 7; n = 0: D29, log 19): a draw whose sprite lies in memory completes; each cell is
toggled exactly if the sprite covers it with a set bit; VF is 1 exactly if a lit cell was, read before VF is written;
nothing else changes. -/
def Obligations.DrawTogglesTheCoveredCells : Prop :=
  ∀ (x y : Reg) (n : Nat) (s : State), (Instr.drw x y n).WellFormed → (n = 0 ∨ s.i.toNat + n ≤ 4096) →
    ∃ t, exec (.drw x y n) s = .next t ∧
      (∀ px py, litAt t.fb px py = (litAt s.fb px py ^^ spriteCovers s x y n px py)) ∧
      ((∃ px py, litAt s.fb px py = true ∧ spriteCovers s x y n px py = true) → t.reg 15 = 1) ∧
      ((∀ px py, litAt s.fb px py = true → spriteCovers s x y n px py = false) → t.reg 15 = 0) ∧
      (∀ r, r ≠ 15 → t.reg r = s.reg r) ∧ SameBut [.regs, .screen] s t

/-- R211: a draw of n > 0 rows whose last byte is outside memory is a bounds violation of a memory read there. -/
def Obligations.DrawOutsideMemoryIsFatal : Prop :=
  ∀ (x y : Reg) (n : Nat) (s : State), 0 < n → 4096 < s.i.toNat + n →
    ∃ r, exec (.drw x y n) s = .fault r ∧ r.subCause = some (.memRead (s.i.toNat + n - 1))

/-- The source's property S8: the same sprite drawn twice at the same place restores the framebuffer, and if the first
draw lit any cell the second leaves VF = 1. (With x or y = 15 the second draw is at another place.) -/
def Obligations.DrawTwiceRestoresTheScreen : Prop :=
  ∀ (x y : Reg) (n : Nat) (s t u : State), (Instr.drw x y n).WellFormed → x ≠ 15 → y ≠ 15 →
    exec (.drw x y n) s = .next t → exec (.drw x y n) t = .next u →
    u.fb = s.fb ∧ ((∃ px py, litAt s.fb px py = false ∧ litAt t.fb px py = true) → u.reg 15 = 1)

/-- R212, the alternative policy `CLIP` (not adopted, D7): where it draws a sprite pixel at all, it draws it where `WRAP`
does. -/
def Obligations.ClipDrawsWhereWrapDoes : Prop :=
  ∀ (vx vy : Byte) (col row : Nat) (c : Fin 64 × Fin 32),
    spriteCell .clip vx vy col row = some c → spriteCell .wrap vx vy col row = some c

/-! ## Keypad and timers -/

/-- R230 and R231 (a key number above 15 is the decision D10, log 9): the key skips test the key whose number is in Vx
and add a further 2 to PC when the condition holds. -/
def Obligations.KeySkipsTestTheNamedKey : Prop :=
  ∀ (x : Reg) (s : State),
    ((s.reg x).toNat < 16 →
      (∃ t, exec (.skp x) s = .next t ∧
        t.pc = (if s.key.getLsbD (s.reg x).toNat = true then s.pc + 2 else s.pc) ∧ SameBut [.pc] s t) ∧
      (∃ t, exec (.sknp x) s = .next t ∧
        t.pc = (if s.key.getLsbD (s.reg x).toNat = true then s.pc else s.pc + 2) ∧ SameBut [.pc] s t)) ∧
    (16 ≤ (s.reg x).toNat →
      (∃ r, exec (.skp x) s = .fault r ∧ r.subCause = some (.keyIndex (s.reg x))) ∧
      (∃ r, exec (.sknp x) s = .fault r ∧ r.subCause = some (.keyIndex (s.reg x))))

/-- R232 (of several pressed keys the lowest: D11, log 10): with a key pressed await-key puts its number into Vx; with
none pressed it completes having only put PC back by 2. -/
def Obligations.AwaitKeyReportsTheLowestKey : Prop :=
  ∀ (x : Reg) (s : State),
    (∀ k : Fin 16, s.pressed k = true → (∀ j, j < k → s.pressed j = false) →
      ∃ t, exec (.ldVxK x) s = .next t ∧ (t.reg x).toNat = k.val ∧ (∀ r, r ≠ x → t.reg r = s.reg r) ∧ SameBut [.regs] s t) ∧
    ((∀ k, s.pressed k = false) → ∃ t, exec (.ldVxK x) s = .next t ∧ t.pc = s.pc - 2 ∧ SameBut [.pc] s t)

/-- The source's property S10, first half (R232, R270): a step that waits for a key changes nothing at all. -/
def Obligations.AwaitKeyStepWaits : Prop :=
  ∀ (s : State) (w : Word) (x : Reg), s.halt = false → fetch s = .ok w → decode w = .instr (.ldVxK x) →
    (∀ k, s.pressed k = false) → step s = .next s

/-- R233 to R235: the three timer instructions. -/
def Obligations.TimerInstructionsMoveOneByte : Prop :=
  ∀ (x : Reg) (s : State),
    (∃ t, exec (.ldVxDt x) s = .next t ∧ t.reg x = s.dt ∧ (∀ r, r ≠ x → t.reg r = s.reg r) ∧ SameBut [.regs] s t) ∧
    (∃ t, exec (.ldDtVx x) s = .next t ∧ t.dt = s.reg x ∧ SameBut [.delay] s t) ∧
    (∃ t, exec (.ldStVx x) s = .next t ∧ t.st = s.reg x ∧ SameBut [.sound] s t)

/-! ## What cannot be observed -/

/-- R30: no instruction reads ST. Two machines that differ only in ST take the same step, but for ST, or raise the same
fatal condition. -/
def Obligations.SoundTimerIsNeverRead : Prop :=
  ∀ (s : State) (b : Byte),
    (∀ t, step s = .next t → ∃ t', step (s.setSt b) = .next t' ∧ t'.setSt 0 = t.setSt 0) ∧
    (∀ r, step s = .fault r → step (s.setSt b) = .fault r)

/-- Two states that differ only in stack entries at or above SP. -/
def Sys2Proof.Machine.SameVisibleStack (s s' : State) : Prop :=
  s' = { s with stack := s'.stack } ∧ ∀ k : Fin 16, k.val < s.sp.val → s'.stack[k] = s.stack[k]

/-- R28 (D19): no instruction can observe a stack entry at or above SP. Two machines that differ only there do the same,
step after step. -/
def Obligations.PoppedEntriesAreNeverObserved : Prop :=
  ∀ s s' : State, SameVisibleStack s s' →
    (∀ t, step s = .next t → ∃ t', step s' = .next t' ∧ SameVisibleStack t t') ∧
    (∀ r, step s = .fault r → step s' = .fault r)

/-! ## Runs from reset -/

/-- R41: every state reachable from reset, under any schedule of resets, loads, steps (fatal ones included), ticks and
key changes, meets the invariant. What a fatal step leaves is unspecified (D15, log 12) but for HALT, FAULT and KEY (log
31); the canonical form of memory is the model's own (log 24). -/
def Obligations.ReachableStatesMeetTheInvariant : Prop :=
  ∀ s : State, Reachable s → s.Inv
end

