-- ==== Sys2Proof/Laws/Decode.lean ====
section
/-! SUPPORT. The fields of a word and the packed formats, as numbers: what the round trips of decoding and encoding
are computed with. -/

namespace Sys2Proof

theorem fieldOp_toNat (w : Word) : (fieldOp w).toNat = w.toNat / 4096 := by
  have h : (fieldOp w) = w.extractLsb' 12 4 := by
    apply BitVec.eq_of_getLsbD_eq
    intro i hi
    have : i = 0 ∨ i = 1 ∨ i = 2 ∨ i = 3 := by omega
    rcases this with rfl | rfl | rfl | rfl <;> simp [fieldOp, fieldKind]
  rw [h, BitVec.extractLsb'_toNat, Nat.shiftRight_eq_div_pow]
  have := w.isLt
  omega

theorem fieldX_val (w : Word) : (fieldX w).val = w.toNat / 256 % 16 := by
  show (w.extractLsb' 8 4).toNat = _
  rw [BitVec.extractLsb'_toNat, Nat.shiftRight_eq_div_pow]

theorem fieldY_val (w : Word) : (fieldY w).val = w.toNat / 16 % 16 := by
  show (w.extractLsb' 4 4).toNat = _
  rw [BitVec.extractLsb'_toNat, Nat.shiftRight_eq_div_pow]

theorem fieldN_toNat (w : Word) : (fieldN w).toNat = w.toNat % 16 := by
  simp [fieldN, BitVec.extractLsb'_toNat]

theorem fieldNN_toNat (w : Word) : (fieldNN w).toNat = w.toNat % 256 := by
  simp [fieldNN, BitVec.extractLsb'_toNat]

theorem fieldNNN_toNat (w : Word) : (fieldNNN w).toNat = w.toNat % 4096 := by
  simp [fieldNNN, BitVec.extractLsb'_toNat]

theorem packNNN_toNat (op : BitVec 4) (nnn : Addr12) : (packNNN op nnn).toNat = op.toNat * 4096 + nnn.toNat := by
  have : (packNNN op nnn).toNat = op.toNat <<< 12 ||| nnn.toNat := BitVec.toNat_append op nnn
  rw [this, ← Nat.shiftLeft_add_eq_or_of_lt nnn.isLt, Nat.shiftLeft_eq]

theorem packXNN_toNat (op : BitVec 4) (x : Reg) (nn : Byte) :
    (packXNN op x nn).toNat = op.toNat * 4096 + x.val * 256 + nn.toNat := by
  have h : (packXNN op x nn).toNat = (op ++ regBits x).toNat <<< 8 ||| nn.toNat := BitVec.toNat_append (op ++ regBits x) nn
  have h2 : (op ++ regBits x).toNat = op.toNat <<< 4 ||| x.val := BitVec.toNat_append op (regBits x)
  rw [h, h2, ← Nat.shiftLeft_add_eq_or_of_lt nn.isLt, ← Nat.shiftLeft_add_eq_or_of_lt (i := 4) x.isLt, Nat.shiftLeft_eq,
    Nat.shiftLeft_eq]
  omega

theorem packXYN_toNat (op : BitVec 4) (x y : Reg) (n : BitVec 4) :
    (packXYN op x y n).toNat = op.toNat * 4096 + x.val * 256 + y.val * 16 + n.toNat := by
  have h : (packXYN op x y n).toNat = (op ++ regBits x ++ regBits y).toNat <<< 4 ||| n.toNat :=
    BitVec.toNat_append (op ++ regBits x ++ regBits y) n
  have h1 : (op ++ regBits x ++ regBits y).toNat = (op ++ regBits x).toNat <<< 4 ||| y.val :=
    BitVec.toNat_append (op ++ regBits x) (regBits y)
  have h2 : (op ++ regBits x).toNat = op.toNat <<< 4 ||| x.val := BitVec.toNat_append op (regBits x)
  rw [h, h1, h2, ← Nat.shiftLeft_add_eq_or_of_lt n.isLt, ← Nat.shiftLeft_add_eq_or_of_lt (i := 4) y.isLt,
    ← Nat.shiftLeft_add_eq_or_of_lt (i := 4) x.isLt, Nat.shiftLeft_eq, Nat.shiftLeft_eq, Nat.shiftLeft_eq]
  omega

/-- The two bytes of a word, put together again, are the word. -/
theorem wordOfBytes_bytes (w : Word) : wordOfBytes (w.extractLsb' 8 8) (w.extractLsb' 0 8) = w := by
  apply BitVec.eq_of_toNat_eq
  have h : (wordOfBytes (w.extractLsb' 8 8) (w.extractLsb' 0 8)).toNat =
      (w.extractLsb' 8 8).toNat <<< 8 ||| (w.extractLsb' 0 8).toNat := BitVec.toNat_append _ _
  rw [h, ← Nat.shiftLeft_add_eq_or_of_lt (w.extractLsb' 0 8).isLt, Nat.shiftLeft_eq, BitVec.extractLsb'_toNat,
    BitVec.extractLsb'_toNat, Nat.shiftRight_eq_div_pow]
  have := w.isLt
  omega

/-- A word as a number, from its two bytes: the high byte counts 256 (R66). -/
theorem wordOfBytes_toNat (hi lo : Byte) : (wordOfBytes hi lo).toNat = 256 * hi.toNat + lo.toNat := by
  have h : (wordOfBytes hi lo).toNat = hi.toNat <<< 8 ||| lo.toNat := BitVec.toNat_append hi lo
  rw [h, ← Nat.shiftLeft_add_eq_or_of_lt lo.isLt, Nat.shiftLeft_eq]
  omega

/-- The decoder never calls a word truncated. -/
theorem decode_ne_truncated (w : Word) : decode w ≠ .truncated := by
  unfold decode decodeFamily0 decodeFamily5 decodeFamily8 decodeFamily9 decodeFamilyE decodeFamilyF
  intro h
  repeat' split at h
  all_goals first | cases h | (dsimp only at h; repeat' split at h) <;> cases h

end Sys2Proof
end

