-- ==== Sys2Proof/Laws/State.lean ====
section
/-! SUPPORT. What each update does to each field of the state: one lemma per field per update, so that no proof
unfolds a record update. -/

namespace Sys2Proof.Machine

/-! ### `State.setReg` -/

@[simp] theorem State.setReg_v (s : State) (r : Reg) (b : Byte) : (s.setReg r b).v = s.v.set r b := rfl
@[simp] theorem State.setReg_i (s : State) (r : Reg) (b : Byte) : (s.setReg r b).i = s.i := rfl
@[simp] theorem State.setReg_pc (s : State) (r : Reg) (b : Byte) : (s.setReg r b).pc = s.pc := rfl
@[simp] theorem State.setReg_sp (s : State) (r : Reg) (b : Byte) : (s.setReg r b).sp = s.sp := rfl
@[simp] theorem State.setReg_stack (s : State) (r : Reg) (b : Byte) : (s.setReg r b).stack = s.stack := rfl
@[simp] theorem State.setReg_dt (s : State) (r : Reg) (b : Byte) : (s.setReg r b).dt = s.dt := rfl
@[simp] theorem State.setReg_st (s : State) (r : Reg) (b : Byte) : (s.setReg r b).st = s.st := rfl
@[simp] theorem State.setReg_mem (s : State) (r : Reg) (b : Byte) : (s.setReg r b).mem = s.mem := rfl
@[simp] theorem State.setReg_fb (s : State) (r : Reg) (b : Byte) : (s.setReg r b).fb = s.fb := rfl
@[simp] theorem State.setReg_key (s : State) (r : Reg) (b : Byte) : (s.setReg r b).key = s.key := rfl
@[simp] theorem State.setReg_halt (s : State) (r : Reg) (b : Byte) : (s.setReg r b).halt = s.halt := rfl
@[simp] theorem State.setReg_fault (s : State) (r : Reg) (b : Byte) : (s.setReg r b).fault = s.fault := rfl
@[simp] theorem State.setReg_draws (s : State) (r : Reg) (b : Byte) : (s.setReg r b).draws = s.draws := rfl

/-! ### `State.loadRegs` -/

@[simp] theorem State.loadRegs_v (s : State) (bs : List Byte) : (s.loadRegs bs).v = loadVector s.v 0 bs := rfl
@[simp] theorem State.loadRegs_i (s : State) (bs : List Byte) : (s.loadRegs bs).i = s.i := rfl
@[simp] theorem State.loadRegs_pc (s : State) (bs : List Byte) : (s.loadRegs bs).pc = s.pc := rfl
@[simp] theorem State.loadRegs_sp (s : State) (bs : List Byte) : (s.loadRegs bs).sp = s.sp := rfl
@[simp] theorem State.loadRegs_stack (s : State) (bs : List Byte) : (s.loadRegs bs).stack = s.stack := rfl
@[simp] theorem State.loadRegs_dt (s : State) (bs : List Byte) : (s.loadRegs bs).dt = s.dt := rfl
@[simp] theorem State.loadRegs_st (s : State) (bs : List Byte) : (s.loadRegs bs).st = s.st := rfl
@[simp] theorem State.loadRegs_mem (s : State) (bs : List Byte) : (s.loadRegs bs).mem = s.mem := rfl
@[simp] theorem State.loadRegs_fb (s : State) (bs : List Byte) : (s.loadRegs bs).fb = s.fb := rfl
@[simp] theorem State.loadRegs_key (s : State) (bs : List Byte) : (s.loadRegs bs).key = s.key := rfl
@[simp] theorem State.loadRegs_halt (s : State) (bs : List Byte) : (s.loadRegs bs).halt = s.halt := rfl
@[simp] theorem State.loadRegs_fault (s : State) (bs : List Byte) : (s.loadRegs bs).fault = s.fault := rfl
@[simp] theorem State.loadRegs_draws (s : State) (bs : List Byte) : (s.loadRegs bs).draws = s.draws := rfl

/-! ### `State.setI` -/

@[simp] theorem State.setI_v (s : State) (w : Word) : (s.setI w).v = s.v := rfl
@[simp] theorem State.setI_i (s : State) (w : Word) : (s.setI w).i = w := rfl
@[simp] theorem State.setI_pc (s : State) (w : Word) : (s.setI w).pc = s.pc := rfl
@[simp] theorem State.setI_sp (s : State) (w : Word) : (s.setI w).sp = s.sp := rfl
@[simp] theorem State.setI_stack (s : State) (w : Word) : (s.setI w).stack = s.stack := rfl
@[simp] theorem State.setI_dt (s : State) (w : Word) : (s.setI w).dt = s.dt := rfl
@[simp] theorem State.setI_st (s : State) (w : Word) : (s.setI w).st = s.st := rfl
@[simp] theorem State.setI_mem (s : State) (w : Word) : (s.setI w).mem = s.mem := rfl
@[simp] theorem State.setI_fb (s : State) (w : Word) : (s.setI w).fb = s.fb := rfl
@[simp] theorem State.setI_key (s : State) (w : Word) : (s.setI w).key = s.key := rfl
@[simp] theorem State.setI_halt (s : State) (w : Word) : (s.setI w).halt = s.halt := rfl
@[simp] theorem State.setI_fault (s : State) (w : Word) : (s.setI w).fault = s.fault := rfl
@[simp] theorem State.setI_draws (s : State) (w : Word) : (s.setI w).draws = s.draws := rfl

/-! ### `State.setPc` -/

@[simp] theorem State.setPc_v (s : State) (w : Word) : (s.setPc w).v = s.v := rfl
@[simp] theorem State.setPc_i (s : State) (w : Word) : (s.setPc w).i = s.i := rfl
@[simp] theorem State.setPc_pc (s : State) (w : Word) : (s.setPc w).pc = w := rfl
@[simp] theorem State.setPc_sp (s : State) (w : Word) : (s.setPc w).sp = s.sp := rfl
@[simp] theorem State.setPc_stack (s : State) (w : Word) : (s.setPc w).stack = s.stack := rfl
@[simp] theorem State.setPc_dt (s : State) (w : Word) : (s.setPc w).dt = s.dt := rfl
@[simp] theorem State.setPc_st (s : State) (w : Word) : (s.setPc w).st = s.st := rfl
@[simp] theorem State.setPc_mem (s : State) (w : Word) : (s.setPc w).mem = s.mem := rfl
@[simp] theorem State.setPc_fb (s : State) (w : Word) : (s.setPc w).fb = s.fb := rfl
@[simp] theorem State.setPc_key (s : State) (w : Word) : (s.setPc w).key = s.key := rfl
@[simp] theorem State.setPc_halt (s : State) (w : Word) : (s.setPc w).halt = s.halt := rfl
@[simp] theorem State.setPc_fault (s : State) (w : Word) : (s.setPc w).fault = s.fault := rfl
@[simp] theorem State.setPc_draws (s : State) (w : Word) : (s.setPc w).draws = s.draws := rfl

/-! ### `State.setDt` -/

@[simp] theorem State.setDt_v (s : State) (b : Byte) : (s.setDt b).v = s.v := rfl
@[simp] theorem State.setDt_i (s : State) (b : Byte) : (s.setDt b).i = s.i := rfl
@[simp] theorem State.setDt_pc (s : State) (b : Byte) : (s.setDt b).pc = s.pc := rfl
@[simp] theorem State.setDt_sp (s : State) (b : Byte) : (s.setDt b).sp = s.sp := rfl
@[simp] theorem State.setDt_stack (s : State) (b : Byte) : (s.setDt b).stack = s.stack := rfl
@[simp] theorem State.setDt_dt (s : State) (b : Byte) : (s.setDt b).dt = b := rfl
@[simp] theorem State.setDt_st (s : State) (b : Byte) : (s.setDt b).st = s.st := rfl
@[simp] theorem State.setDt_mem (s : State) (b : Byte) : (s.setDt b).mem = s.mem := rfl
@[simp] theorem State.setDt_fb (s : State) (b : Byte) : (s.setDt b).fb = s.fb := rfl
@[simp] theorem State.setDt_key (s : State) (b : Byte) : (s.setDt b).key = s.key := rfl
@[simp] theorem State.setDt_halt (s : State) (b : Byte) : (s.setDt b).halt = s.halt := rfl
@[simp] theorem State.setDt_fault (s : State) (b : Byte) : (s.setDt b).fault = s.fault := rfl
@[simp] theorem State.setDt_draws (s : State) (b : Byte) : (s.setDt b).draws = s.draws := rfl

/-! ### `State.setSt` -/

@[simp] theorem State.setSt_v (s : State) (b : Byte) : (s.setSt b).v = s.v := rfl
@[simp] theorem State.setSt_i (s : State) (b : Byte) : (s.setSt b).i = s.i := rfl
@[simp] theorem State.setSt_pc (s : State) (b : Byte) : (s.setSt b).pc = s.pc := rfl
@[simp] theorem State.setSt_sp (s : State) (b : Byte) : (s.setSt b).sp = s.sp := rfl
@[simp] theorem State.setSt_stack (s : State) (b : Byte) : (s.setSt b).stack = s.stack := rfl
@[simp] theorem State.setSt_dt (s : State) (b : Byte) : (s.setSt b).dt = s.dt := rfl
@[simp] theorem State.setSt_st (s : State) (b : Byte) : (s.setSt b).st = b := rfl
@[simp] theorem State.setSt_mem (s : State) (b : Byte) : (s.setSt b).mem = s.mem := rfl
@[simp] theorem State.setSt_fb (s : State) (b : Byte) : (s.setSt b).fb = s.fb := rfl
@[simp] theorem State.setSt_key (s : State) (b : Byte) : (s.setSt b).key = s.key := rfl
@[simp] theorem State.setSt_halt (s : State) (b : Byte) : (s.setSt b).halt = s.halt := rfl
@[simp] theorem State.setSt_fault (s : State) (b : Byte) : (s.setSt b).fault = s.fault := rfl
@[simp] theorem State.setSt_draws (s : State) (b : Byte) : (s.setSt b).draws = s.draws := rfl

/-! ### `State.setFb` -/

@[simp] theorem State.setFb_v (s : State) (f : Frame) : (s.setFb f).v = s.v := rfl
@[simp] theorem State.setFb_i (s : State) (f : Frame) : (s.setFb f).i = s.i := rfl
@[simp] theorem State.setFb_pc (s : State) (f : Frame) : (s.setFb f).pc = s.pc := rfl
@[simp] theorem State.setFb_sp (s : State) (f : Frame) : (s.setFb f).sp = s.sp := rfl
@[simp] theorem State.setFb_stack (s : State) (f : Frame) : (s.setFb f).stack = s.stack := rfl
@[simp] theorem State.setFb_dt (s : State) (f : Frame) : (s.setFb f).dt = s.dt := rfl
@[simp] theorem State.setFb_st (s : State) (f : Frame) : (s.setFb f).st = s.st := rfl
@[simp] theorem State.setFb_mem (s : State) (f : Frame) : (s.setFb f).mem = s.mem := rfl
@[simp] theorem State.setFb_fb (s : State) (f : Frame) : (s.setFb f).fb = f := rfl
@[simp] theorem State.setFb_key (s : State) (f : Frame) : (s.setFb f).key = s.key := rfl
@[simp] theorem State.setFb_halt (s : State) (f : Frame) : (s.setFb f).halt = s.halt := rfl
@[simp] theorem State.setFb_fault (s : State) (f : Frame) : (s.setFb f).fault = s.fault := rfl
@[simp] theorem State.setFb_draws (s : State) (f : Frame) : (s.setFb f).draws = s.draws := rfl

/-! ### `State.setMem` -/

@[simp] theorem State.setMem_v (s : State) (m : Memory) : (s.setMem m).v = s.v := rfl
@[simp] theorem State.setMem_i (s : State) (m : Memory) : (s.setMem m).i = s.i := rfl
@[simp] theorem State.setMem_pc (s : State) (m : Memory) : (s.setMem m).pc = s.pc := rfl
@[simp] theorem State.setMem_sp (s : State) (m : Memory) : (s.setMem m).sp = s.sp := rfl
@[simp] theorem State.setMem_stack (s : State) (m : Memory) : (s.setMem m).stack = s.stack := rfl
@[simp] theorem State.setMem_dt (s : State) (m : Memory) : (s.setMem m).dt = s.dt := rfl
@[simp] theorem State.setMem_st (s : State) (m : Memory) : (s.setMem m).st = s.st := rfl
@[simp] theorem State.setMem_mem (s : State) (m : Memory) : (s.setMem m).mem = m := rfl
@[simp] theorem State.setMem_fb (s : State) (m : Memory) : (s.setMem m).fb = s.fb := rfl
@[simp] theorem State.setMem_key (s : State) (m : Memory) : (s.setMem m).key = s.key := rfl
@[simp] theorem State.setMem_halt (s : State) (m : Memory) : (s.setMem m).halt = s.halt := rfl
@[simp] theorem State.setMem_fault (s : State) (m : Memory) : (s.setMem m).fault = s.fault := rfl
@[simp] theorem State.setMem_draws (s : State) (m : Memory) : (s.setMem m).draws = s.draws := rfl

/-! ### `State.consumeRand` -/

@[simp] theorem State.consumeRand_v (s : State) : (s.consumeRand).v = s.v := rfl
@[simp] theorem State.consumeRand_i (s : State) : (s.consumeRand).i = s.i := rfl
@[simp] theorem State.consumeRand_pc (s : State) : (s.consumeRand).pc = s.pc := rfl
@[simp] theorem State.consumeRand_sp (s : State) : (s.consumeRand).sp = s.sp := rfl
@[simp] theorem State.consumeRand_stack (s : State) : (s.consumeRand).stack = s.stack := rfl
@[simp] theorem State.consumeRand_dt (s : State) : (s.consumeRand).dt = s.dt := rfl
@[simp] theorem State.consumeRand_st (s : State) : (s.consumeRand).st = s.st := rfl
@[simp] theorem State.consumeRand_mem (s : State) : (s.consumeRand).mem = s.mem := rfl
@[simp] theorem State.consumeRand_fb (s : State) : (s.consumeRand).fb = s.fb := rfl
@[simp] theorem State.consumeRand_key (s : State) : (s.consumeRand).key = s.key := rfl
@[simp] theorem State.consumeRand_halt (s : State) : (s.consumeRand).halt = s.halt := rfl
@[simp] theorem State.consumeRand_fault (s : State) : (s.consumeRand).fault = s.fault := rfl
@[simp] theorem State.consumeRand_draws (s : State) : (s.consumeRand).draws = s.draws + 1 := rfl

/-! ### `State.advance` -/

@[simp] theorem State.advance_v (s : State) : (s.advance).v = s.v := rfl
@[simp] theorem State.advance_i (s : State) : (s.advance).i = s.i := rfl
@[simp] theorem State.advance_pc (s : State) : (s.advance).pc = s.pc + 2 := rfl
@[simp] theorem State.advance_sp (s : State) : (s.advance).sp = s.sp := rfl
@[simp] theorem State.advance_stack (s : State) : (s.advance).stack = s.stack := rfl
@[simp] theorem State.advance_dt (s : State) : (s.advance).dt = s.dt := rfl
@[simp] theorem State.advance_st (s : State) : (s.advance).st = s.st := rfl
@[simp] theorem State.advance_mem (s : State) : (s.advance).mem = s.mem := rfl
@[simp] theorem State.advance_fb (s : State) : (s.advance).fb = s.fb := rfl
@[simp] theorem State.advance_key (s : State) : (s.advance).key = s.key := rfl
@[simp] theorem State.advance_halt (s : State) : (s.advance).halt = s.halt := rfl
@[simp] theorem State.advance_fault (s : State) : (s.advance).fault = s.fault := rfl
@[simp] theorem State.advance_draws (s : State) : (s.advance).draws = s.draws := rfl

/-! ### `State.advanceI` -/

@[simp] theorem State.advanceI_v (s : State) (x : Reg) : (s.advanceI x).v = s.v := rfl
@[simp] theorem State.advanceI_i (s : State) (x : Reg) : (s.advanceI x).i = BitVec.ofNat 16 (s.base + x.val + 1) := rfl
@[simp] theorem State.advanceI_pc (s : State) (x : Reg) : (s.advanceI x).pc = s.pc := rfl
@[simp] theorem State.advanceI_sp (s : State) (x : Reg) : (s.advanceI x).sp = s.sp := rfl
@[simp] theorem State.advanceI_stack (s : State) (x : Reg) : (s.advanceI x).stack = s.stack := rfl
@[simp] theorem State.advanceI_dt (s : State) (x : Reg) : (s.advanceI x).dt = s.dt := rfl
@[simp] theorem State.advanceI_st (s : State) (x : Reg) : (s.advanceI x).st = s.st := rfl
@[simp] theorem State.advanceI_mem (s : State) (x : Reg) : (s.advanceI x).mem = s.mem := rfl
@[simp] theorem State.advanceI_fb (s : State) (x : Reg) : (s.advanceI x).fb = s.fb := rfl
@[simp] theorem State.advanceI_key (s : State) (x : Reg) : (s.advanceI x).key = s.key := rfl
@[simp] theorem State.advanceI_halt (s : State) (x : Reg) : (s.advanceI x).halt = s.halt := rfl
@[simp] theorem State.advanceI_fault (s : State) (x : Reg) : (s.advanceI x).fault = s.fault := rfl
@[simp] theorem State.advanceI_draws (s : State) (x : Reg) : (s.advanceI x).draws = s.draws := rfl

/-! ### `State.skipIf`, `State.setFlagAndResult` -/

@[simp] theorem State.skipIf_v (s : State) (c : Bool) : (s.skipIf c).v = s.v := by cases c <;> rfl
@[simp] theorem State.skipIf_i (s : State) (c : Bool) : (s.skipIf c).i = s.i := by cases c <;> rfl
@[simp] theorem State.skipIf_pc (s : State) (c : Bool) : (s.skipIf c).pc = if c then s.pc + 2 else s.pc := by cases c <;> rfl
@[simp] theorem State.skipIf_sp (s : State) (c : Bool) : (s.skipIf c).sp = s.sp := by cases c <;> rfl
@[simp] theorem State.skipIf_stack (s : State) (c : Bool) : (s.skipIf c).stack = s.stack := by cases c <;> rfl
@[simp] theorem State.skipIf_dt (s : State) (c : Bool) : (s.skipIf c).dt = s.dt := by cases c <;> rfl
@[simp] theorem State.skipIf_st (s : State) (c : Bool) : (s.skipIf c).st = s.st := by cases c <;> rfl
@[simp] theorem State.skipIf_mem (s : State) (c : Bool) : (s.skipIf c).mem = s.mem := by cases c <;> rfl
@[simp] theorem State.skipIf_fb (s : State) (c : Bool) : (s.skipIf c).fb = s.fb := by cases c <;> rfl
@[simp] theorem State.skipIf_key (s : State) (c : Bool) : (s.skipIf c).key = s.key := by cases c <;> rfl
@[simp] theorem State.skipIf_halt (s : State) (c : Bool) : (s.skipIf c).halt = s.halt := by cases c <;> rfl
@[simp] theorem State.skipIf_fault (s : State) (c : Bool) : (s.skipIf c).fault = s.fault := by cases c <;> rfl
@[simp] theorem State.skipIf_draws (s : State) (c : Bool) : (s.skipIf c).draws = s.draws := by cases c <;> rfl

@[simp] theorem State.setFlagAndResult_i (s : State) (p : VfWriteOrder) (x : Reg) (g b : Byte) :
    (s.setFlagAndResult p x g b).i = s.i := by cases p <;> rfl
@[simp] theorem State.setFlagAndResult_pc (s : State) (p : VfWriteOrder) (x : Reg) (g b : Byte) :
    (s.setFlagAndResult p x g b).pc = s.pc := by cases p <;> rfl
@[simp] theorem State.setFlagAndResult_sp (s : State) (p : VfWriteOrder) (x : Reg) (g b : Byte) :
    (s.setFlagAndResult p x g b).sp = s.sp := by cases p <;> rfl
@[simp] theorem State.setFlagAndResult_stack (s : State) (p : VfWriteOrder) (x : Reg) (g b : Byte) :
    (s.setFlagAndResult p x g b).stack = s.stack := by cases p <;> rfl
@[simp] theorem State.setFlagAndResult_dt (s : State) (p : VfWriteOrder) (x : Reg) (g b : Byte) :
    (s.setFlagAndResult p x g b).dt = s.dt := by cases p <;> rfl
@[simp] theorem State.setFlagAndResult_st (s : State) (p : VfWriteOrder) (x : Reg) (g b : Byte) :
    (s.setFlagAndResult p x g b).st = s.st := by cases p <;> rfl
@[simp] theorem State.setFlagAndResult_mem (s : State) (p : VfWriteOrder) (x : Reg) (g b : Byte) :
    (s.setFlagAndResult p x g b).mem = s.mem := by cases p <;> rfl
@[simp] theorem State.setFlagAndResult_fb (s : State) (p : VfWriteOrder) (x : Reg) (g b : Byte) :
    (s.setFlagAndResult p x g b).fb = s.fb := by cases p <;> rfl
@[simp] theorem State.setFlagAndResult_key (s : State) (p : VfWriteOrder) (x : Reg) (g b : Byte) :
    (s.setFlagAndResult p x g b).key = s.key := by cases p <;> rfl
@[simp] theorem State.setFlagAndResult_halt (s : State) (p : VfWriteOrder) (x : Reg) (g b : Byte) :
    (s.setFlagAndResult p x g b).halt = s.halt := by cases p <;> rfl
@[simp] theorem State.setFlagAndResult_fault (s : State) (p : VfWriteOrder) (x : Reg) (g b : Byte) :
    (s.setFlagAndResult p x g b).fault = s.fault := by cases p <;> rfl
@[simp] theorem State.setFlagAndResult_draws (s : State) (p : VfWriteOrder) (x : Reg) (g b : Byte) :
    (s.setFlagAndResult p x g b).draws = s.draws := by cases p <;> rfl

/-! ### Register by register -/

/-- Writing one register changes no other (R20). -/
@[simp] theorem State.reg_setReg (s : State) (r q : Reg) (b : Byte) :
    (s.setReg r b).reg q = if q = r then b else s.reg q := by
  by_cases h : q = r
  · subst h; simp [State.reg, State.setReg]
  · have : r.val ≠ q.val := fun e => h (Fin.ext e.symm)
    simp [State.reg, State.setReg, h, Vector.getElem_set_ne, this]

@[simp] theorem State.reg_setI (s : State) (w : Word) (q : Reg) : (s.setI w).reg q = s.reg q := rfl
@[simp] theorem State.reg_setPc (s : State) (w : Word) (q : Reg) : (s.setPc w).reg q = s.reg q := rfl
@[simp] theorem State.reg_setDt (s : State) (b : Byte) (q : Reg) : (s.setDt b).reg q = s.reg q := rfl
@[simp] theorem State.reg_setSt (s : State) (b : Byte) (q : Reg) : (s.setSt b).reg q = s.reg q := rfl
@[simp] theorem State.reg_setFb (s : State) (f : Frame) (q : Reg) : (s.setFb f).reg q = s.reg q := rfl
@[simp] theorem State.reg_setMem (s : State) (m : Memory) (q : Reg) : (s.setMem m).reg q = s.reg q := rfl
@[simp] theorem State.reg_consumeRand (s : State) (q : Reg) : (s.consumeRand).reg q = s.reg q := rfl
@[simp] theorem State.reg_advance (s : State) (q : Reg) : (s.advance).reg q = s.reg q := rfl
@[simp] theorem State.reg_advanceI (s : State) (x : Reg) (q : Reg) : (s.advanceI x).reg q = s.reg q := rfl
@[simp] theorem State.reg_skipIf (s : State) (c : Bool) (q : Reg) : (s.skipIf c).reg q = s.reg q := by cases c <;> rfl

/-- With the flag written first, the result wins in VF (R160). -/
@[simp] theorem State.reg_setFlagAndResult (s : State) (x q : Reg) (g b : Byte) :
    (s.setFlagAndResult .flagThenResult x g b).reg q = if q = x then b else if q = vf then g else s.reg q := by
  simp [State.setFlagAndResult]

end Sys2Proof.Machine
end

