-- ==== Sys2Proof/Laws/Memory.lean ====
section
/-! SUPPORT. Memory: a read after a write, and that every memory operation keeps the canonical form. -/

namespace Sys2Proof.Machine

@[simp] theorem Memory.read_nil (a : Nat) : Memory.read [] a = Memory.unlisted a := rfl

/-- The unlisted value is what an address without an entry reads as. -/
theorem Memory.read_of_not_listed {m : Memory} {a : Nat} (h : ∀ c ∈ m, c.1 ≠ a) :
    Memory.read m a = Memory.unlisted a := by
  induction m with
  | nil => rfl
  | cons c m ih =>
    rw [Memory.read, if_neg (h c (by simp))]
    exact ih fun d hd => h d (by simp [hd])

/-- Taking out another address's entries changes no read. -/
theorem Memory.read_filter_other (m : Memory) {a b : Nat} (h : b ≠ a) :
    Memory.read (m.filter (fun c => c.1 ≠ a)) b = Memory.read m b := by
  induction m with
  | nil => rfl
  | cons c m ih =>
    by_cases hc : c.1 = a
    · have : c.1 ≠ b := fun e => h (e ▸ hc)
      simpa [Memory.read, hc, Ne.symm h] using ih
    · simp only [List.filter_cons, hc, decide_not, decide_false, Bool.not_false, if_true, Memory.read]
      split
      · rfl
      · simpa using ih

/-- An inserted cell reads back, if its address was not listed. -/
theorem Memory.read_insert_same {m : Memory} {c : Host.Cell} (h : ∀ d ∈ m, d.1 ≠ c.1) :
    Memory.read (Memory.insert c m) c.1 = c.2 := by
  induction m with
  | nil => simp [Memory.insert, Memory.read]
  | cons d m ih =>
    unfold Memory.insert
    split
    · simp [Memory.read]
    · rw [Memory.read, if_neg (h d (by simp))]
      exact ih fun e he => h e (by simp [he])

/-- An inserted cell changes the read of no other address. -/
theorem Memory.read_insert_other (m : Memory) {c : Host.Cell} {b : Nat} (h : b ≠ c.1) :
    Memory.read (Memory.insert c m) b = Memory.read m b := by
  induction m with
  | nil => simp [Memory.insert, Memory.read, Ne.symm h]
  | cons d m ih =>
    unfold Memory.insert
    split
    · simp [Memory.read, Ne.symm h]
    · simp only [Memory.read, ih]

/-- A written cell reads back as written (R65). -/
@[simp] theorem Memory.read_write_same (m : Memory) (a : Nat) (b : Byte) :
    Memory.read (Memory.write m a b) a = b := by
  have absent : ∀ d ∈ m.filter (fun c => c.1 ≠ a), d.1 ≠ a := fun d hd => by simpa using (List.mem_filter.1 hd).2
  unfold Memory.write
  dsimp only
  split
  · rename_i hb
    rw [Memory.read_of_not_listed absent, hb]
  · exact Memory.read_insert_same (c := (a, b)) absent

/-- A write leaves every other cell alone (R65). -/
theorem Memory.read_write_other (m : Memory) {a c : Nat} (b : Byte) (h : c ≠ a) :
    Memory.read (Memory.write m a b) c = Memory.read m c := by
  unfold Memory.write
  dsimp only
  split
  · exact Memory.read_filter_other m h
  · rw [Memory.read_insert_other _ h, Memory.read_filter_other m h]

/-- Everything a block write does to a read: inside the block the byte written, outside what was there. -/
theorem Memory.read_writeBytes (m : Memory) (base : Nat) (bs : List Byte) (a : Nat) :
    Memory.read (Memory.writeBytes m base bs) a =
      if h : base ≤ a ∧ a - base < bs.length then bs[a - base] else Memory.read m a := by
  induction bs generalizing m base with
  | nil => simp [Memory.writeBytes]
  | cons b bs ih =>
    rw [Memory.writeBytes, ih]
    by_cases heq : a = base
    · subst heq
      rw [dif_neg (by omega), dif_pos (by simp), Memory.read_write_same]
      simp
    · by_cases hin : base + 1 ≤ a ∧ a - (base + 1) < bs.length
      · rw [dif_pos hin, dif_pos (by simp only [List.length_cons]; omega)]
        have : a - base = (a - (base + 1)) + 1 := by omega
        simp [this]
      · rw [dif_neg hin, dif_neg (by simp only [List.length_cons]; omega), Memory.read_write_other _ _ heq]

/-! ## The canonical form -/

/-- Memory after reset is in canonical form. -/
theorem Memory.wf_nil : Memory.wf [] := ⟨List.Pairwise.nil, by simp⟩

/-- Inserting a cell keeps every fact that holds of the cell and of the list's cells. -/
theorem Memory.mem_insert {m : Memory} {c d : Host.Cell} (h : d ∈ Memory.insert c m) : d = c ∨ d ∈ m := by
  induction m with
  | nil => simpa [Memory.insert] using h
  | cons e m ih =>
    unfold Memory.insert at h
    split at h
    · simpa using h
    · rcases List.mem_cons.1 h with rfl | h
      · simp
      · rcases ih h with rfl | h <;> simp [*]

/-- Inserting a cell whose address is not listed keeps the addresses rising. -/
theorem Memory.pairwise_insert {m : Memory} {c : Host.Cell} (hm : m.Pairwise (fun x y => x.1 < y.1))
    (h : ∀ d ∈ m, d.1 ≠ c.1) : (Memory.insert c m).Pairwise (fun x y => x.1 < y.1) := by
  induction m with
  | nil => simp [Memory.insert]
  | cons d m ih =>
    have hd := List.pairwise_cons.1 hm
    have hne := h d (by simp)
    unfold Memory.insert
    split
    · rename_i hlt
      refine List.pairwise_cons.2 ⟨fun e he => ?_, hm⟩
      rcases List.mem_cons.1 he with rfl | he
      · exact hlt
      · exact Nat.lt_trans hlt (hd.1 e he)
    · refine List.pairwise_cons.2 ⟨fun e he => ?_, ih hd.2 fun e he => h e (by simp [he])⟩
      rcases Memory.mem_insert he with rfl | he
      · omega
      · exact hd.1 e he

/-- A write in range keeps the canonical form. -/
theorem Memory.wf_write {m : Memory} (hm : Memory.wf m) {a : Nat} (ha : a < 4096) (b : Byte) :
    Memory.wf (Memory.write m a b) := by
  have sorted : (m.filter (fun c => c.1 ≠ a)).Pairwise (fun x y => x.1 < y.1) := hm.1.filter _
  have cells : ∀ c ∈ m.filter (fun c => c.1 ≠ a), c.1 < 4096 ∧ c.2 ≠ Memory.unlisted c.1 :=
    fun c hc => hm.2 c (List.mem_filter.1 hc).1
  have absent : ∀ d ∈ m.filter (fun c => c.1 ≠ a), d.1 ≠ a := fun d hd => by simpa using (List.mem_filter.1 hd).2
  unfold Memory.write
  dsimp only
  split
  · exact ⟨sorted, cells⟩
  · rename_i hb
    refine ⟨Memory.pairwise_insert sorted absent, fun c hc => ?_⟩
    rcases Memory.mem_insert hc with rfl | hc
    · exact ⟨ha, hb⟩
    · exact cells c hc

/-- A block write in range keeps the canonical form. -/
theorem Memory.wf_writeBytes {m : Memory} (hm : Memory.wf m) {base : Nat} {bs : List Byte}
    (h : base + bs.length ≤ 4096) : Memory.wf (Memory.writeBytes m base bs) := by
  induction bs generalizing m base with
  | nil => exact hm
  | cons b bs ih =>
    simp only [List.length_cons] at h
    exact ih (Memory.wf_write hm (by omega) b) (by omega)

end Sys2Proof.Machine
end

