-- ==== Sys2Proof/Laws/Ops.lean ====
section
/-! SUPPORT. For each shared operation, what it can do: the lemmas later proofs cite instead of unfolding it. -/

namespace Sys2Proof.Machine

/-! ## Memory blocks and fetch -/

/-- A block read succeeds exactly when it is empty or ends inside memory, and gives the bytes from `base` up. -/
theorem loadBytes_eq_ok {s : State} {base count : Nat} {bs : List Byte} :
    loadBytes s base count = .ok bs ↔
      (count = 0 ∨ base + count ≤ 4096) ∧ bs = (List.range count).map fun k => Memory.read s.mem (base + k) := by
  unfold loadBytes
  split
  · constructor
    · intro h; cases h
    · intro h; omega
  · simp only [Except.ok.injEq]
    constructor
    · rintro rfl; exact ⟨by omega, rfl⟩
    · rintro ⟨-, rfl⟩; rfl

/-- A block read fails exactly when it is not empty and ends outside memory; the cause names its last address. -/
theorem loadBytes_eq_error {s : State} {base count : Nat} {c : BoundsCause} :
    loadBytes s base count = .error c ↔
      (0 < count ∧ 4096 < base + count) ∧ c = .memRead (base + count - 1) := by
  unfold loadBytes
  split
  · simp only [Except.error.injEq]
    constructor
    · rintro rfl; exact ⟨by omega, rfl⟩
    · rintro ⟨-, rfl⟩; rfl
  · constructor
    · intro h; cases h
    · intro h; omega

/-- A block write succeeds exactly when it is empty or ends inside memory, and changes memory only. -/
theorem storeBytes_eq_ok {s t : State} {base : Nat} {bs : List Byte} :
    storeBytes s base bs = .ok t ↔
      (bs = [] ∨ base + bs.length ≤ 4096) ∧ t = s.setMem (Memory.writeBytes s.mem base bs) := by
  unfold storeBytes
  have : bs = [] ↔ bs.length = 0 := by simp
  rw [this]
  split
  · constructor
    · intro h; cases h
    · intro h; omega
  · simp only [Except.ok.injEq]
    constructor
    · rintro rfl; exact ⟨by omega, rfl⟩
    · rintro ⟨-, rfl⟩; rfl

/-- A block write fails exactly when it is not empty and ends outside memory; the cause names its last address. -/
theorem storeBytes_eq_error {s : State} {base : Nat} {bs : List Byte} {c : BoundsCause} :
    storeBytes s base bs = .error c ↔
      (0 < bs.length ∧ 4096 < base + bs.length) ∧ c = .memWrite (base + bs.length - 1) := by
  unfold storeBytes
  split
  · simp only [Except.error.injEq]
    constructor
    · rintro rfl; exact ⟨by omega, rfl⟩
    · rintro ⟨-, rfl⟩; rfl
  · constructor
    · intro h; cases h
    · intro h; omega

/-- A successful block write keeps the canonical form of memory. -/
theorem storeBytes_wf {s t : State} {base : Nat} {bs : List Byte} (h : storeBytes s base bs = .ok t)
    (hm : Memory.wf s.mem) : Memory.wf t.mem := by
  obtain ⟨rfl | hb, rfl⟩ := storeBytes_eq_ok.1 h
  · exact hm
  · exact Memory.wf_writeBytes hm hb

/-- A fetch succeeds exactly when PC + 1 is inside memory. -/
theorem fetch_eq_ok {s : State} {w : Word} :
    fetch s = .ok w ↔ s.pc.toNat + 1 < 4096 ∧
      w = wordOfBytes (Memory.read s.mem s.pc.toNat) (Memory.read s.mem (s.pc.toNat + 1)) := by
  unfold fetch
  split
  · constructor
    · intro h; cases h
    · intro h; omega
  · simp only [Except.ok.injEq]
    constructor
    · rintro rfl; exact ⟨by omega, rfl⟩
    · rintro ⟨-, rfl⟩; rfl

/-- A fetch fails exactly when PC + 1 is outside memory, with the cause FETCH. -/
theorem fetch_eq_error {s : State} {c : BoundsCause} :
    fetch s = .error c ↔ 4096 ≤ s.pc.toNat + 1 ∧ c = .fetch := by
  unfold fetch
  split
  · simp only [Except.error.injEq]
    constructor
    · rintro rfl; exact ⟨by assumption, rfl⟩
    · rintro ⟨-, rfl⟩; rfl
  · constructor
    · intro h; cases h
    · intro h; omega

/-! ## Checked values -/

@[simp] theorem orFatal_ok {α : Type} (i : Instr) (s : State) (a : α)
    (k : α → Host.Outcome State Fault Refusal) : orFatal i s (.ok a) k = k a := rfl

@[simp] theorem orFatal_error {α : Type} (i : Instr) (s : State) (c : BoundsCause)
    (k : α → Host.Outcome State Fault Refusal) :
    orFatal i s (.error c) k = .fault (.boundsViolation c (some (encode i)) s.pc0) := rfl

/-- A next state comes from a checked value that was in bounds. -/
theorem orFatal_eq_next {α : Type} {i : Instr} {s t : State} {r : Except BoundsCause α}
    {k : α → Host.Outcome State Fault Refusal} (h : orFatal i s r k = .next t) : ∃ a, r = .ok a ∧ k a = .next t := by
  cases r with
  | ok a => exact ⟨a, rfl, h⟩
  | error c => cases h

/-! ## The call stack -/

/-- What a push does, where there is room (R142). -/
theorem push_eq_some {s t : State} {w : Word} (h : s.push w = some t) :
    ∃ room : s.sp.val < 16,
      t = { s with stack := s.stack.set s.sp.val w room, sp := ⟨s.sp.val + 1, by omega⟩ } := by
  unfold State.push at h
  split at h
  · rename_i hr; exact ⟨hr, by simpa using h.symm⟩
  · cases h

/-- A push fails exactly at SP = 16 (R142). -/
theorem push_eq_none {s : State} {w : Word} : s.push w = none ↔ s.sp.val = 16 := by
  unfold State.push
  split
  · simp; omega
  · simp; omega

/-- What a pop does, where there is an entry (R140). -/
theorem pop_eq_some {s t : State} {w : Word} (h : s.pop = some (w, t)) :
    ∃ _ : 0 < s.sp.val, w = s.stack[s.sp.val - 1]'(by omega) ∧ t = { s with sp := ⟨s.sp.val - 1, by omega⟩ } := by
  unfold State.pop at h
  split at h
  · rename_i hr
    simp only [Option.some.injEq, Prod.mk.injEq] at h
    exact ⟨hr, h.1.symm, h.2.symm⟩
  · cases h

/-- A pop fails exactly at SP = 0 (R140). -/
theorem pop_eq_none {s : State} : s.pop = none ↔ s.sp.val = 0 := by
  unfold State.pop
  split
  · simp; omega
  · simp; omega

/-! ## Keys -/

/-- The key operand under the spec's `KEY_INDEX_POLICY = FAULT`, in bounds (R230). -/
theorem keyOperand_of_lt {x : Reg} {s : State} (h : (s.reg x).toNat < 16) :
    keyOperand .fault x s = .ok ⟨(s.reg x).toNat, h⟩ := by simp [keyOperand, h]

/-- The key operand under `KEY_INDEX_POLICY = FAULT`, out of bounds (R230). -/
theorem keyOperand_of_ge {x : Reg} {s : State} (h : 16 ≤ (s.reg x).toNat) :
    keyOperand .fault x s = .error (.keyIndex (s.reg x)) := by simp [keyOperand, Nat.not_lt.2 h]

/-- No key is pressed (R232). -/
theorem lowestKey_eq_none {s : State} : s.lowestKey = none ↔ ∀ k, s.pressed k = false := by
  simp [State.lowestKey, List.find?_eq_none]

/-- The reported key is pressed (R232). -/
theorem lowestKey_pressed {s : State} {k : Fin 16} (h : s.lowestKey = some k) : s.pressed k = true :=
  List.find?_some h

/-! ## The framebuffer -/

/-- A toggle inverts its own cell and no other (R211). -/
theorem litAt_toggleCell (f : Frame) (px qx : Fin 64) (py qy : Fin 32) :
    litAt (toggleCell f px py) qx qy = ((litAt f qx qy) ^^ decide (qx = px ∧ qy = py)) := by
  unfold litAt toggleCell
  by_cases hy : qy = py
  · subst hy
    simp [Fin.ext_iff]
  · have hne : py.val ≠ qy.val := fun e => hy (Fin.ext e.symm)
    simp [hy, Vector.getElem_set_ne, hne]

/-- Two framebuffers with the same cells are equal. -/
theorem frame_ext {f g : Frame} (h : ∀ px py, litAt f px py = litAt g px py) : f = g := by
  apply Vector.ext
  intro y hy
  apply BitVec.eq_of_getLsbD_eq
  intro x hx
  simpa [litAt] using h ⟨x, hx⟩ ⟨y, hy⟩

@[simp] theorem litAt_clearFrame (px : Fin 64) (py : Fin 32) : litAt clearFrame px py = false := by
  simp [litAt, clearFrame]

/-- What one sprite bit does to a cell and to the collision, its cell being (px, py) (R211). -/
theorem drawPixel_set {p : DrawEdge} {vx vy bits : Byte} {row col : Nat} {px : Fin 64} {py : Fin 32}
    (hb : bits.getLsbD (7 - col) = true) (hc : spriteCell p vx vy col row = some (px, py)) (a : Frame × Bool) :
    drawPixel p vx vy row bits a col = (toggleCell a.1 px py, a.2 || litAt a.1 px py) := by
  simp [drawPixel, hb, hc]

/-- A sprite bit of 0 does nothing (R211). -/
theorem drawPixel_clear {p : DrawEdge} {vx vy bits : Byte} {row col : Nat}
    (hb : bits.getLsbD (7 - col) = false) (a : Frame × Bool) : drawPixel p vx vy row bits a col = a := by
  simp [drawPixel, hb]

/-- With `WRAP` every sprite pixel has a cell (R212). -/
theorem spriteCell_wrap (vx vy : Byte) (col row : Nat) :
    spriteCell .wrap vx vy col row =
      some (⟨(vx.toNat + col) % 64, by omega⟩, ⟨(vy.toNat + row) % 32, by omega⟩) := rfl

/-! ## Loading registers -/

/-- Register by register, what a load from a list of bytes does (R195). -/
theorem loadVector_getElem (v : Vector Byte 16) (k : Nat) (bs : List Byte) (q : Fin 16) :
    (loadVector v k bs)[q] = if h : k ≤ q.val ∧ q.val - k < bs.length then bs[q.val - k] else v[q] := by
  induction bs generalizing v k with
  | nil => simp [loadVector]
  | cons b bs ih =>
    rw [loadVector, ih]
    by_cases heq : q.val = k
    · rw [dif_neg (by omega), dif_pos (by simp only [List.length_cons]; omega)]
      simp [heq]
    · by_cases hin : k + 1 ≤ q.val ∧ q.val - (k + 1) < bs.length
      · rw [dif_pos hin, dif_pos (by simp only [List.length_cons]; omega)]
        have : q.val - k = (q.val - (k + 1)) + 1 := by omega
        simp [this]
      · rw [dif_neg hin, dif_neg (by simp only [List.length_cons]; omega)]
        simp [Ne.symm heq]

/-- Register by register, what `loadRegs` does. -/
theorem State.reg_loadRegs (s : State) (bs : List Byte) (q : Reg) :
    (s.loadRegs bs).reg q = if h : q.val < bs.length then bs[q.val] else s.reg q := by
  have := loadVector_getElem s.v 0 bs q
  simp only [Nat.zero_le, true_and, Nat.sub_zero] at this
  exact this

/-- The first registers as bytes (R194). -/
theorem State.firstRegs_length (s : State) (k : Nat) (h : k ≤ 16) : (s.firstRegs k).length = k := by
  simp [State.firstRegs, h]

theorem State.firstRegs_getElem (s : State) (k j : Nat) (hj : j < (s.firstRegs k).length) (h16 : j < 16) :
    (s.firstRegs k)[j] = s.reg ⟨j, h16⟩ := by
  simp [State.firstRegs, State.reg]

end Sys2Proof.Machine
end

