-- ==== Sys2Proof/Laws/PerInstr.lean ====
section
/-! SUPPORT. For every instruction: its encoding has the fixed bits of its own row of the opcode map (R94, R95). One
lemma per constructor. -/

namespace Sys2Proof

/-- Format `ADDR` under the family mask. -/
theorem packNNN_and_family (op : BitVec 4) (nnn : Addr12) : packNNN op nnn &&& 0xF000#16 = op ++ 0#12 := by
  apply BitVec.eq_of_getLsbD_eq
  intro i hi
  simp only [packNNN, BitVec.getLsbD_and, BitVec.getLsbD_append, BitVec.getLsbD_ofNat]
  interval_cases i <;> simp [Nat.testBit]

/-- Format `REG_IMM` under the family mask. -/
theorem packXNN_and_family (op : BitVec 4) (x : Reg) (nn : Byte) : packXNN op x nn &&& 0xF000#16 = op ++ 0#12 := by
  apply BitVec.eq_of_getLsbD_eq
  intro i hi
  simp only [packXNN, BitVec.getLsbD_and, BitVec.getLsbD_append, BitVec.getLsbD_ofNat]
  interval_cases i <;> simp [Nat.testBit]

/-- Format `REG` under the mask of family and low byte. -/
theorem packXNN_and_low (op : BitVec 4) (x : Reg) (nn : Byte) : packXNN op x nn &&& 0xF0FF#16 = op ++ 0#4 ++ nn := by
  apply BitVec.eq_of_getLsbD_eq
  intro i hi
  simp only [packXNN, BitVec.getLsbD_and, BitVec.getLsbD_append, BitVec.getLsbD_ofNat]
  interval_cases i <;> simp [Nat.testBit]

/-- Format `DRAW` under the family mask. -/
theorem packXYN_and_family (op : BitVec 4) (x y : Reg) (n : BitVec 4) :
    packXYN op x y n &&& 0xF000#16 = op ++ 0#12 := by
  apply BitVec.eq_of_getLsbD_eq
  intro i hi
  simp only [packXYN, BitVec.getLsbD_and, BitVec.getLsbD_append, BitVec.getLsbD_ofNat]
  interval_cases i <;> simp [Nat.testBit]

/-- Format `REG_REG` under the mask of family and sub-opcode. -/
theorem packXYN_and_low (op : BitVec 4) (x y : Reg) (n : BitVec 4) :
    packXYN op x y n &&& 0xF00F#16 = op ++ 0#8 ++ n := by
  apply BitVec.eq_of_getLsbD_eq
  intro i hi
  simp only [packXYN, BitVec.getLsbD_and, BitVec.getLsbD_append, BitVec.getLsbD_ofNat]
  interval_cases i <;> simp [Nat.testBit]

end Sys2Proof

namespace Sys2Proof.Laws.MatchesItsRow

/-- The word of a well-formed instruction has every fixed bit of the row with its mnemonic. -/
def Statement (i : Instr) : Prop :=
  i.WellFormed → ∃ r ∈ opcodeTable, r.mnemonic = i.mnemonic ∧ encode i &&& r.mask = r.value

theorem cls : Statement (.cls) :=
  fun _ => ⟨⟨"CLS", 0xFFFF, 0x00E0⟩, by decide, rfl, rfl⟩

theorem ret : Statement (.ret) :=
  fun _ => ⟨⟨"RET", 0xFFFF, 0x00EE⟩, by decide, rfl, rfl⟩

theorem jp (nnn : Addr12) : Statement (.jp nnn) :=
  fun _ => ⟨⟨"JP", 0xF000, 0x1000⟩, by decide, rfl, packNNN_and_family _ _⟩

theorem call (nnn : Addr12) : Statement (.call nnn) :=
  fun _ => ⟨⟨"CALL", 0xF000, 0x2000⟩, by decide, rfl, packNNN_and_family _ _⟩

theorem seImm (x : Reg) (nn : Byte) : Statement (.seImm x nn) :=
  fun _ => ⟨⟨"SE_IMM", 0xF000, 0x3000⟩, by decide, rfl, packXNN_and_family _ _ _⟩

theorem sneImm (x : Reg) (nn : Byte) : Statement (.sneImm x nn) :=
  fun _ => ⟨⟨"SNE_IMM", 0xF000, 0x4000⟩, by decide, rfl, packXNN_and_family _ _ _⟩

theorem seReg (x y : Reg) : Statement (.seReg x y) :=
  fun _ => ⟨⟨"SE_REG", 0xF00F, 0x5000⟩, by decide, rfl, packXYN_and_low _ _ _ _⟩

theorem ldImm (x : Reg) (nn : Byte) : Statement (.ldImm x nn) :=
  fun _ => ⟨⟨"LD_IMM", 0xF000, 0x6000⟩, by decide, rfl, packXNN_and_family _ _ _⟩

theorem addImm (x : Reg) (nn : Byte) : Statement (.addImm x nn) :=
  fun _ => ⟨⟨"ADD_IMM", 0xF000, 0x7000⟩, by decide, rfl, packXNN_and_family _ _ _⟩

theorem ldReg (x y : Reg) : Statement (.ldReg x y) :=
  fun _ => ⟨⟨"LD_REG", 0xF00F, 0x8000⟩, by decide, rfl, packXYN_and_low _ _ _ _⟩

theorem orReg (x y : Reg) : Statement (.orReg x y) :=
  fun _ => ⟨⟨"OR", 0xF00F, 0x8001⟩, by decide, rfl, packXYN_and_low _ _ _ _⟩

theorem andReg (x y : Reg) : Statement (.andReg x y) :=
  fun _ => ⟨⟨"AND", 0xF00F, 0x8002⟩, by decide, rfl, packXYN_and_low _ _ _ _⟩

theorem xorReg (x y : Reg) : Statement (.xorReg x y) :=
  fun _ => ⟨⟨"XOR", 0xF00F, 0x8003⟩, by decide, rfl, packXYN_and_low _ _ _ _⟩

theorem addReg (x y : Reg) : Statement (.addReg x y) :=
  fun _ => ⟨⟨"ADD_REG", 0xF00F, 0x8004⟩, by decide, rfl, packXYN_and_low _ _ _ _⟩

theorem sub (x y : Reg) : Statement (.sub x y) :=
  fun _ => ⟨⟨"SUB", 0xF00F, 0x8005⟩, by decide, rfl, packXYN_and_low _ _ _ _⟩

theorem shr (x y : Reg) : Statement (.shr x y) :=
  fun _ => ⟨⟨"SHR", 0xF00F, 0x8006⟩, by decide, rfl, packXYN_and_low _ _ _ _⟩

theorem subn (x y : Reg) : Statement (.subn x y) :=
  fun _ => ⟨⟨"SUBN", 0xF00F, 0x8007⟩, by decide, rfl, packXYN_and_low _ _ _ _⟩

theorem shl (x y : Reg) : Statement (.shl x y) :=
  fun _ => ⟨⟨"SHL", 0xF00F, 0x800E⟩, by decide, rfl, packXYN_and_low _ _ _ _⟩

theorem sneReg (x y : Reg) : Statement (.sneReg x y) :=
  fun _ => ⟨⟨"SNE_REG", 0xF00F, 0x9000⟩, by decide, rfl, packXYN_and_low _ _ _ _⟩

theorem ldI (nnn : Addr12) : Statement (.ldI nnn) :=
  fun _ => ⟨⟨"LD_I", 0xF000, 0xA000⟩, by decide, rfl, packNNN_and_family _ _⟩

theorem jpV0 (nnn : Addr12) : Statement (.jpV0 nnn) :=
  fun _ => ⟨⟨"JP_V0", 0xF000, 0xB000⟩, by decide, rfl, packNNN_and_family _ _⟩

theorem rnd (x : Reg) (nn : Byte) : Statement (.rnd x nn) :=
  fun _ => ⟨⟨"RND", 0xF000, 0xC000⟩, by decide, rfl, packXNN_and_family _ _ _⟩

theorem drw (x y : Reg) (n : Nat) : Statement (.drw x y n) :=
  fun _ => ⟨⟨"DRW", 0xF000, 0xD000⟩, by decide, rfl, packXYN_and_family _ _ _ _⟩

theorem skp (x : Reg) : Statement (.skp x) :=
  fun _ => ⟨⟨"SKP", 0xF0FF, 0xE09E⟩, by decide, rfl, packXNN_and_low _ _ _⟩

theorem sknp (x : Reg) : Statement (.sknp x) :=
  fun _ => ⟨⟨"SKNP", 0xF0FF, 0xE0A1⟩, by decide, rfl, packXNN_and_low _ _ _⟩

theorem ldVxDt (x : Reg) : Statement (.ldVxDt x) :=
  fun _ => ⟨⟨"LD_VX_DT", 0xF0FF, 0xF007⟩, by decide, rfl, packXNN_and_low _ _ _⟩

theorem ldVxK (x : Reg) : Statement (.ldVxK x) :=
  fun _ => ⟨⟨"LD_VX_K", 0xF0FF, 0xF00A⟩, by decide, rfl, packXNN_and_low _ _ _⟩

theorem ldDtVx (x : Reg) : Statement (.ldDtVx x) :=
  fun _ => ⟨⟨"LD_DT_VX", 0xF0FF, 0xF015⟩, by decide, rfl, packXNN_and_low _ _ _⟩

theorem ldStVx (x : Reg) : Statement (.ldStVx x) :=
  fun _ => ⟨⟨"LD_ST_VX", 0xF0FF, 0xF018⟩, by decide, rfl, packXNN_and_low _ _ _⟩

theorem addIVx (x : Reg) : Statement (.addIVx x) :=
  fun _ => ⟨⟨"ADD_I_VX", 0xF0FF, 0xF01E⟩, by decide, rfl, packXNN_and_low _ _ _⟩

theorem ldFVx (x : Reg) : Statement (.ldFVx x) :=
  fun _ => ⟨⟨"LD_F_VX", 0xF0FF, 0xF029⟩, by decide, rfl, packXNN_and_low _ _ _⟩

theorem ldBVx (x : Reg) : Statement (.ldBVx x) :=
  fun _ => ⟨⟨"LD_B_VX", 0xF0FF, 0xF033⟩, by decide, rfl, packXNN_and_low _ _ _⟩

theorem ldMemVx (x : Reg) : Statement (.ldMemVx x) :=
  fun _ => ⟨⟨"LD_MEM_VX", 0xF0FF, 0xF055⟩, by decide, rfl, packXNN_and_low _ _ _⟩

theorem ldVxMem (x : Reg) : Statement (.ldVxMem x) :=
  fun _ => ⟨⟨"LD_VX_MEM", 0xF0FF, 0xF065⟩, by decide, rfl, packXNN_and_low _ _ _⟩

end Sys2Proof.Laws.MatchesItsRow
end

