-- ==== Sys2Proof/Laws/Step.lean ====
section
/-! SUPPORT. What a step can do, said once (spec/40_step_cycle.md R120). -/

namespace Sys2Proof.Machine

/-- A step that answers a next state ran on a halted machine, which stays as it is, or executed the decoded word. -/
theorem step_eq_next {s t : State} (h : step s = .next t) :
    (s.halt = true ∧ t = s) ∨
    (s.halt = false ∧ ∃ w i, fetch s = .ok w ∧ decode w = .instr i ∧ exec i s.advance = .next t) := by
  unfold step at h
  split at h
  · rename_i hh
    exact .inl ⟨hh, by injection h with h; exact h.symm⟩
  · rename_i hh
    refine .inr ⟨by simpa using hh, ?_⟩
    split at h
    · cases h
    · rename_i w hw
      split at h
      · rename_i i hi
        exact ⟨w, i, hw, hi, h⟩
      · cases h
      · cases h

/-- A step that raises a fatal condition failed to fetch, fetched an unknown word, or executed an instruction that
raised it, in that order (R127). -/
theorem step_eq_fault {s : State} {r : Fault} (h : step s = .fault r) :
    s.halt = false ∧
    ((∃ c, fetch s = .error c ∧ r = .boundsViolation c none s.pc) ∨
     (∃ w, fetch s = .ok w ∧ (∃ u, decode w = .unknownInstruction u ∧ r = .unknownInstruction u s.pc)) ∨
     (∃ w i, fetch s = .ok w ∧ decode w = .instr i ∧ exec i s.advance = .fault r)) := by
  unfold step at h
  split at h
  · cases h
  · rename_i hh
    refine ⟨by simpa using hh, ?_⟩
    split at h
    · rename_i c hc
      exact .inl ⟨c, hc, by injection h with h; exact h.symm⟩
    · rename_i w hw
      split at h
      · rename_i i hi
        exact .inr (.inr ⟨w, i, hw, hi, h⟩)
      · rename_i u hu
        exact .inr (.inl ⟨w, hw, u, hu, by injection h with h; exact h.symm⟩)
      · rename_i hu
        exact absurd hu (decode_ne_truncated w)

/-- A fetched address leaves room for PC to advance. -/
theorem advance_pc_toNat {s : State} {w : Word} (h : fetch s = .ok w) : s.advance.pc.toNat = s.pc.toNat + 2 := by
  have hb := (fetch_eq_ok.1 h).1
  have hpc : s.advance.pc = s.pc + 2 := rfl
  rw [hpc, BitVec.toNat_add]
  have : (2 : Word).toNat = 2 := rfl
  omega

/-- `pc0` as an instruction sees it in a step is the address it was fetched from (R124). -/
@[simp] theorem advance_pc0 (s : State) : s.advance.pc0 = s.pc := by
  show s.pc + 2 - 2 = s.pc
  exact BitVec.add_sub_cancel _ _

end Sys2Proof.Machine
end

