-- ==== Sys2Proof/Tests/Slice0.lean ====
section
/-! SUPPORT. Tests: the well-formedness smoke tests, every constructor's decoding shown by a word written out from
R95, one-step tests, and for every statement with hypotheses a state that meets them. "Vector T1" and the like are rows
of spec/95_test_vectors.md section 2, whose results are derived from the rules; "example of R140" is the example that
rule prints. -/

namespace Sys2Proof.Tests

open Sys2Proof.Machine

/-! ## Helpers -/

/-- The next state of an outcome, if it is one. -/
def nextOf : Host.Outcome State Fault Refusal → Option State
  | .next t => some t
  | .fault _ => none
  | .refused _ => none

/-- The fault of an outcome, if it is one. -/
def faultOf : Host.Outcome State Fault Refusal → Option Fault
  | .next _ => none
  | .fault r => some r
  | .refused _ => none

theorem exists_next {o : Host.Outcome State Fault Refusal} (h : (nextOf o).isSome = true) : ∃ t, o = .next t := by
  cases o with
  | next t => exact ⟨t, rfl⟩
  | fault r => cases h
  | refused r => cases h

theorem exists_fault {o : Host.Outcome State Fault Refusal} (h : (faultOf o).isSome = true) : ∃ r, o = .fault r := by
  cases o with
  | next t => cases h
  | fault r => exact ⟨r, rfl⟩
  | refused r => cases h

/-- The reset state with the word `w` at 0x200, after the changes `prep`. -/
def start (w : Nat) (prep : State → State) : State := prep (State.reset.withFetchWord 16 w)

/-- What one step makes of it. -/
def run (w : Nat) (prep : State → State) : Option State := nextOf (step (start w prep))

/-- The fatal condition one step raises there. -/
def runFault (w : Nat) (prep : State → State) : Option Fault := faultOf (step (start w prep))

/-- Bytes written from an address up. -/
def put (a : Nat) (bs : List Byte) (s : State) : State := s.setMem (Memory.writeBytes s.mem a bs)

/-- Reset with the stack full of one address and SP = k. -/
def deep (k : Fin 17) (a : Word) (s : State) : State := { s with sp := k, stack := Vector.replicate 16 a }

/-- The reset machine, halted with a record. -/
def haltedBy (r : Fault) : State := { State.reset with halt := true, fault := some r }

/-- A halted machine. -/
def haltedState : State := haltedBy (.unknownInstruction 0x0000 0x0200)

/-- What a fatal step of the reset machine may leave. -/
theorem leftBy_haltedBy (r : Fault) : LeftBy State.reset r (haltedBy r) := ⟨rfl, rfl, rfl, rfl, Memory.wf_nil⟩

/-- The state with one lit cell. -/
def lit (px : Fin 64) (py : Fin 32) (s : State) : State := s.setFb (toggleCell s.fb px py)

/-! ## Well-formedness -/

/-- A sprite of 16 rows does not fit the field (R91: n is 0..15). -/
theorem test_wellFormed_refuses_sixteen_rows : (Instr.drw 0 0 16).wellFormed = false := by decide

theorem test_wellFormed_takes_fifteen_rows : (Instr.drw 15 15 15).wellFormed = true := by decide

/-- The largest image has 3584 bytes (vectors X7 and X8). -/
theorem test_imageFits_refuses_3585 : imageFits (List.replicate 3585 0) = false := by
  unfold imageFits; rw [List.length_replicate]; decide

theorem test_imageFits_takes_3584 : imageFits (List.replicate 3584 0) = true := by
  unfold imageFits; rw [List.length_replicate]; decide

/-! ## Decoding: one word of every constructor, written out from the patterns of R95 -/

theorem test_decode_control :
    decode 0x00E0 = .instr .cls ∧ decode 0x00EE = .instr .ret ∧ decode 0x1ABC = .instr (.jp 0xABC) ∧
    decode 0x2FFF = .instr (.call 0xFFF) ∧ decode 0x3A01 = .instr (.seImm 10 0x01) ∧
    decode 0x4FFE = .instr (.sneImm 15 0xFE) ∧ decode 0x5AB0 = .instr (.seReg 10 11) ∧
    decode 0x9AB0 = .instr (.sneReg 10 11) ∧ decode 0xB300 = .instr (.jpV0 0x300) := by decide

theorem test_decode_alu :
    decode 0x6A7F = .instr (.ldImm 10 0x7F) ∧ decode 0x7FFE = .instr (.addImm 15 0xFE) ∧
    decode 0x8AB0 = .instr (.ldReg 10 11) ∧ decode 0x8AB1 = .instr (.orReg 10 11) ∧
    decode 0x8AB2 = .instr (.andReg 10 11) ∧ decode 0x8AB3 = .instr (.xorReg 10 11) ∧
    decode 0x8AB4 = .instr (.addReg 10 11) ∧ decode 0x8AB5 = .instr (.sub 10 11) ∧
    decode 0x8AB6 = .instr (.shr 10 11) ∧ decode 0x8AB7 = .instr (.subn 10 11) ∧
    decode 0x8ABE = .instr (.shl 10 11) ∧ decode 0xC30F = .instr (.rnd 3 0x0F) := by decide

theorem test_decode_rest :
    decode 0xA2F0 = .instr (.ldI 0x2F0) ∧ decode 0xD12A = .instr (.drw 1 2 10) ∧ decode 0xE29E = .instr (.skp 2) ∧
    decode 0xE3A1 = .instr (.sknp 3) ∧ decode 0xF407 = .instr (.ldVxDt 4) ∧ decode 0xF50A = .instr (.ldVxK 5) ∧
    decode 0xF615 = .instr (.ldDtVx 6) ∧ decode 0xF718 = .instr (.ldStVx 7) ∧ decode 0xF81E = .instr (.addIVx 8) ∧
    decode 0xF929 = .instr (.ldFVx 9) ∧ decode 0xFA33 = .instr (.ldBVx 10) ∧ decode 0xFB55 = .instr (.ldMemVx 11) ∧
    decode 0xFC65 = .instr (.ldVxMem 12) := by decide

/-- Words of section 2.7 of the vectors that no row matches, near misses of every family that has them. -/
theorem test_decode_unknown :
    ([0x0000, 0x00E1, 0x01E0, 0x0FEE, 0x5121, 0x8008, 0x800F, 0x9001, 0xE19F, 0xE1A0, 0xF000, 0xF166, 0xFFFF] :
      List Word).map decode =
    ([0x0000, 0x00E1, 0x01E0, 0x0FEE, 0x5121, 0x8008, 0x800F, 0x9001, 0xE19F, 0xE1A0, 0xF000, 0xF166, 0xFFFF] :
      List Word).map .unknownInstruction := by decide

/-- The fields of D12A (section 1 of the vectors, after S11). -/
theorem test_fields :
    fieldKind 0xD12A = 0xD000 ∧ fieldX 0xD12A = 1 ∧ fieldY 0xD12A = 2 ∧ fieldN 0xD12A = 0xA ∧ fieldNN 0xD12A = 0x2A ∧
    fieldNNN 0xD12A = 0x12A := by decide

/-- A word is encoded from its fields as R92 lays them out. -/
theorem test_encode :
    encode (.drw 1 2 10) = 0xD12A ∧ encode (.ldImm 10 0x7F) = 0x6A7F ∧ encode (.call 0x210) = 0x2210 ∧
    encode (.shl 10 11) = 0x8ABE ∧ encode (.sknp 3) = 0xE3A1 := by decide

/-- Bytes are decoded high byte first (R90); a single byte is no instruction. -/
theorem test_decodeBytes :
    decodeBytes [0x6A, 0x7F, 0x12] = .instr (.ldImm 10 0x7F) ∧ decodeBytes [0x6A] = .truncated := by decide

/-- The host's numbering: bit 0 is the word's least significant bit. -/
theorem test_decodeTableWord :
    decodeTableWord 16 0x6A7F = some (.ldImm 10 0x7F) ∧ decodeTableWord 16 0x0000 = none := by decide

/-! ## One step of each instruction -/

/-- Vector W0. -/
theorem test_cls :
    (run 0x00E0 (fun s => (lit 5 9 s).setReg 15 1)).map (fun t => (t.fb, t.reg 15, t.pc))
      = some (clearFrame, 0x01, 0x202) := by decide

/-- Example of R140. -/
theorem test_ret :
    (run 0x00EE (fun s => deep 1 0x206 s)).map (fun t => (t.pc, t.sp)) = some (0x206, 0) := by decide

/-- Vector T2. -/
theorem test_ret_underflow :
    (runFault 0x00EE id).map (fun t => (t.subCause, t.word, t.pc0))
      = some (some .stackUnderflow, some 0x00EE, 0x200) := by decide

/-- Vector T3. -/
theorem test_jp :
    (run 0x1ABC id).map (fun t => (t.pc, t.reg 0)) = some (0xABC, 0) := by decide

/-- Vector T7. -/
theorem test_call :
    (run 0x2300 (fun s => deep 15 0 s)).map (fun t => (t.pc, t.sp, t.stack[15])) = some (0x300, 16, 0x202) := by decide

/-- Vector T8. -/
theorem test_call_overflow :
    (runFault 0x2300 (fun s => deep 16 0 s)).map (fun t => (t.subCause, t.word, t.pc0))
      = some (some .stackOverflow, some 0x2300, 0x200) := by decide

/-- Vector T9a: no 12-bit mask. -/
theorem test_jpV0 :
    (run 0xBFFF (fun s => s.setReg 0 0xFF)).map (fun t => t.pc) = some 0x10FE := by decide

/-- Vector T9, with another value in V3. -/
theorem test_jpV0_uses_v0 :
    (run 0xB300 (fun s => (s.setReg 0 0x04).setReg 3 0x77)).map (fun t => t.pc) = some 0x304 := by decide

/-- Vector T10. -/
theorem test_seImm_equal :
    (run 0x332A (fun s => s.setReg 3 0x2A)).map (fun t => t.pc) = some 0x204 := by decide

/-- Vector T11. -/
theorem test_seImm_not_equal :
    (run 0x332B (fun s => s.setReg 3 0x2A)).map (fun t => t.pc) = some 0x202 := by decide

/-- Vector T12. -/
theorem test_sneImm_equal :
    (run 0x432A (fun s => s.setReg 3 0x2A)).map (fun t => t.pc) = some 0x202 := by decide

/-- Vector T13. -/
theorem test_sneImm_not_equal :
    (run 0x432B (fun s => s.setReg 3 0x2A)).map (fun t => t.pc) = some 0x204 := by decide

/-- Vector T14. -/
theorem test_seReg_equal :
    (run 0x5120 (fun s => (s.setReg 1 0x07).setReg 2 0x07)).map (fun t => t.pc) = some 0x204 := by decide

/-- Vector T15. -/
theorem test_seReg_not_equal :
    (run 0x5120 (fun s => (s.setReg 1 0x07).setReg 2 0x08)).map (fun t => t.pc) = some 0x202 := by decide

/-- Vector T16. -/
theorem test_sneReg_equal :
    (run 0x9120 (fun s => (s.setReg 1 0x07).setReg 2 0x07)).map (fun t => t.pc) = some 0x202 := by decide

/-- Vector T17. -/
theorem test_sneReg_not_equal :
    (run 0x9120 (fun s => (s.setReg 1 0x07).setReg 2 0x08)).map (fun t => t.pc) = some 0x204 := by decide

/-- Vector A1. -/
theorem test_ldImm :
    (run 0x6A7F id).map (fun t => (t.reg 10, t.pc)) = some (0x7F, 0x202) := by decide

/-- Vector A3: wraps, no flag. -/
theorem test_addImm :
    (run 0x7201 (fun s => (s.setReg 2 0xFF).setReg 15 0x33)).map (fun t => (t.reg 2, t.reg 15))
      = some (0x00, 0x33) := by decide

/-- Vector A5. -/
theorem test_ldReg :
    (run 0x8010 (fun s => ((s.setReg 0 0x12).setReg 1 0x33).setReg 15 0x55)).map
        (fun t => (t.reg 0, t.reg 1, t.reg 15))
      = some (0x33, 0x33, 0x55) := by decide

/-- Vector A6. -/
theorem test_or :
    (run 0x8011 (fun s => ((s.setReg 0 0xF0).setReg 1 0x0F).setReg 15 0x55)).map (fun t => (t.reg 0, t.reg 15))
      = some (0xFF, 0x55) := by decide

/-- Vector A8. -/
theorem test_and :
    (run 0x8012 (fun s => ((s.setReg 0 0xFC).setReg 1 0x3F).setReg 15 0x55)).map (fun t => (t.reg 0, t.reg 15))
      = some (0x3C, 0x55) := by decide

/-- Vector A9. -/
theorem test_xor :
    (run 0x8013 (fun s => ((s.setReg 0 0xFF).setReg 1 0x0F).setReg 15 0x55)).map (fun t => (t.reg 0, t.reg 15))
      = some (0xF0, 0x55) := by decide

/-- Vector A13 (the source's own, S4). -/
theorem test_add_carry :
    (run 0x8014 (fun s => (s.setReg 0 0xFF).setReg 1 0x01)).map (fun t => (t.reg 0, t.reg 15))
      = some (0x00, 0x01) := by decide

/-- Vector F1: the result replaces the flag. -/
theorem test_add_into_vf :
    (run 0x8F14 (fun s => (s.setReg 15 0xC8).setReg 1 0x64)).map (fun t => t.reg 15) = some 0x2C := by decide

/-- Vector A20. -/
theorem test_sub_wraps :
    (run 0x8015 (fun s => (s.setReg 0 0x03).setReg 1 0x05)).map (fun t => (t.reg 0, t.reg 15))
      = some (0xFE, 0x00) := by decide

/-- Vector A21. -/
theorem test_sub_equal :
    (run 0x8015 (fun s => (s.setReg 0 0x07).setReg 1 0x07)).map (fun t => (t.reg 0, t.reg 15))
      = some (0x00, 0x00) := by decide

/-- Vector A26. -/
theorem test_subn :
    (run 0x8017 (fun s => (s.setReg 0 0x03).setReg 1 0x05)).map (fun t => (t.reg 0, t.reg 15))
      = some (0x02, 0x01) := by decide

/-- Vector F7. -/
theorem test_subn_reads_vf_first :
    (run 0x81F7 (fun s => (s.setReg 1 0x03).setReg 15 0x05)).map (fun t => (t.reg 1, t.reg 15))
      = some (0x02, 0x01) := by decide

/-- Vector A34. -/
theorem test_shr_ignores_y :
    (run 0x8026 (fun s => (s.setReg 0 0x05).setReg 2 0xAA)).map (fun t => (t.reg 0, t.reg 15, t.reg 2))
      = some (0x02, 0x01, 0xAA) := by decide

/-- Vector A35. -/
theorem test_shl :
    (run 0x801E (fun s => s.setReg 0 0x81)).map (fun t => (t.reg 0, t.reg 15)) = some (0x02, 0x01) := by decide

/-- R35: the next execution draws another byte. -/
theorem test_rnd_consumes_a_byte :
    (run 0xC30F id).map (fun t => (t.draws, t.pc)) = some (1, 0x202) := by decide

/-- Vector A41: with nn = 0 the result is 0, whatever the random byte. -/
theorem test_rnd_zero_mask : nextOf (exec (.rnd 3 0x00) (State.reset.setReg 3 0x55)) =
    some ((State.reset.setReg 3 0x00).consumeRand) := by
  simp [nextOf, exec, execRnd, State.setReg, State.reset]

/-- Vector M2. -/
theorem test_ldI :
    (run 0xAFFF (fun s => s.setI 0xF123)).map (fun t => t.i) = some 0x0FFF := by decide

/-- Vector M4. -/
theorem test_addI_passes_fff :
    (run 0xF21E (fun s => (s.setI 0x0FFF).setReg 2 0x01)).map (fun t => (t.i, t.reg 15))
      = some (0x1000, 0x00) := by decide

/-- Vector M6. -/
theorem test_addI_wraps :
    (run 0xF21E (fun s => ((s.setI 0xFF80).setReg 2 0xFF).setReg 15 0x07)).map (fun t => (t.i, t.reg 15))
      = some (0x007F, 0x07) := by decide

/-- Vector M9. -/
theorem test_ldF :
    (run 0xF429 (fun s => s.setReg 4 0x0F)).map (fun t => t.i) = some 0x004B := by decide

/-- Vector M11. -/
theorem test_ldF_above_f :
    (run 0xF429 (fun s => s.setReg 4 0xFF)).map (fun t => t.i) = some 0x04FB := by decide

/-- Vector M16. -/
theorem test_bcd :
    (run 0xF533 (fun s => (s.setI 0x0FFD).setReg 5 0xFF)).map
        (fun t => ((List.range 3).map fun k => Memory.read t.mem (0xFFD + k), t.i))
      = some ([2, 5, 5], 0xFFD) := by decide

/-- Vector M17. -/
theorem test_bcd_outside :
    (runFault 0xF533 (fun s => (s.setI 0x0FFE).setReg 5 0xFF)).map (fun t => (t.subCause, t.word, t.pc0))
      = some (some (.memWrite 0x1000), some 0xF533, 0x200) := by decide

/-- Vector M19. -/
theorem test_dump :
    (run 0xF255 (fun s => (((s.setI 0x400).setReg 0 0x11).setReg 1 0x22).setReg 3 0x44)).map
        (fun t => ((List.range 4).map fun k => Memory.read t.mem (0x400 + k), t.i))
      = some ([0x11, 0x22, 0x00, 0x00], 0x403) := by decide

/-- Vector M22. -/
theorem test_dump_outside :
    (runFault 0xFF55 (fun s => s.setI 0x0FF1)).map (fun t => (t.subCause, t.word, t.pc0))
      = some (some (.memWrite 0x1000), some 0xFF55, 0x200) := by decide

/-- Vector M26 (the font), with V5 kept. -/
theorem test_load :
    (run 0xF465 (fun s => s.setReg 5 0x99)).map
        (fun t => ((List.finRange 6).map fun r => t.reg (Fin.castLE (by decide) r), t.i))
      = some ([0xF0, 0x90, 0x90, 0x90, 0xF0, 0x99], 5) := by decide

/-- Vector M25. -/
theorem test_load_outside :
    (runFault 0xF165 (fun s => s.setI 0x0FFF)).map (fun t => (t.subCause, t.word, t.pc0))
      = some (some (.memRead 0x1000), some 0xF165, 0x200) := by decide

/-- Vector W2. -/
theorem test_drw_wraps :
    (run 0xD011 (fun s => (((put 0x300 [0xFF] s).setI 0x300).setReg 0 60).setReg 1 31)).map
        (fun t => (((List.finRange 64).filter fun px => litAt t.fb px 31), t.reg 15))
      = some ([0, 1, 2, 3, 60, 61, 62, 63], 0) := by decide

/-- Vector W5. -/
theorem test_drw_collides :
    (run 0xD011 (fun s => lit 3 0 ((put 0x300 [0xFF] s).setI 0x300))).map
        (fun t => (((List.finRange 64).filter fun px => litAt t.fb px 0), t.reg 15))
      = some ([0, 1, 2, 4, 5, 6, 7], 1) := by decide

/-- Vector K1. -/
theorem test_skp_pressed :
    (run 0xE29E (fun s => setKeys 0x0020 (s.setReg 2 0x05))).map (fun t => t.pc) = some 0x204 := by decide

/-- Vector K5. -/
theorem test_skp_key_above_15 :
    (runFault 0xE29E (fun s => s.setReg 2 0x10)).map (fun t => (t.subCause, t.word, t.pc0))
      = some (some (.keyIndex 0x10), some 0xE29E, 0x200) := by decide

/-- Vector K3. -/
theorem test_sknp_pressed :
    (run 0xE2A1 (fun s => setKeys 0x0020 (s.setReg 2 0x05))).map (fun t => t.pc) = some 0x202 := by decide

/-- Vector K4. -/
theorem test_sknp_not_pressed :
    (run 0xE2A1 (fun s => s.setReg 2 0x05)).map (fun t => t.pc) = some 0x204 := by decide

/-- Vector K7. -/
theorem test_awaitKey_waits :
    (run 0xF30A (fun s => s.setReg 3 0x55)).map (fun t => (t.reg 3, t.pc)) = some (0x55, 0x200) := by decide

/-- Vector K9. -/
theorem test_awaitKey_lowest :
    (run 0xF30A (fun s => setKeys 0x0204 s)).map (fun t => (t.reg 3, t.pc)) = some (0x02, 0x202) := by decide

/-- Vector K11. -/
theorem test_ldVxDt :
    (run 0xF407 (fun s => s.setDt 0x3C)).map (fun t => (t.reg 4, t.dt)) = some (0x3C, 0x3C) := by decide

/-- Vector K12. -/
theorem test_ldDtVx :
    (run 0xF415 (fun s => s.setReg 4 0x3C)).map (fun t => (t.dt, t.st)) = some (0x3C, 0x00) := by decide

/-- Vector K13. -/
theorem test_ldStVx :
    (run 0xF418 (fun s => s.setReg 4 0x3C)).map (fun t => (t.dt, t.st)) = some (0x00, 0x3C) := by decide

/-- Vector X1: an unloaded machine fetches 0000. -/
theorem test_unloaded : faultOf (step State.reset) = some (.unknownInstruction 0x0000 0x0200) := by decide

/-- Vector X2: the fetch check comes before decoding. -/
theorem test_fetch_outside :
    faultOf (step (State.reset.setPc 0xFFF)) = some (.boundsViolation .fetch none 0xFFF) := by decide

/-- Vector T22: the last address that can be fetched from is FFE. -/
theorem test_fetch_at_the_top :
    (nextOf (step ((State.reset.setPc 0xFFE).withFetchWord 16 0x6007))).map (fun t => (t.reg 0, t.pc)) =
    some (0x07, 0x1000) := by decide

/-- Vector X4: a halted machine does not step. -/
theorem test_halted : nextOf (step haltedState) = some haltedState := by decide

/-- Vectors K14 and K16. -/
theorem test_tick :
    ((timerTick ((State.reset.setDt 2).setSt 1)).dt, (timerTick ((State.reset.setDt 2).setSt 1)).st,
      (timerTick State.reset).dt) = (1, 0, 0) := by decide

/-- Vector X6: a reset clears the halt and the fault. -/
theorem test_reset_after_halt : resetCore haltedState = State.reset := by decide

/-! ## What the statements assume can be met

One theorem for each statement that has hypotheses, with states and operands at the boundaries of its clauses. -/

theorem witness_DecodeOfEncode :
    (Instr.drw 15 15 15).WellFormed ∧ (Instr.drw 0 0 0).WellFormed ∧ Instr.cls.WellFormed := by decide

theorem witness_EncodeOfDecode :
    decode 0xDFFF = .instr (.drw 15 15 15) ∧ decode 0x00E0 = .instr .cls := by decide

theorem witness_DecodeSelects :
    decode 0xFF65 = .instr (.ldVxMem 15) ∧ ∀ r ∈ opcodeTable, r.matchesWord 0xFF66 = false := by decide

theorem witness_StepRuns :
    ∃ (s : State) (w : Word) (i : Instr), s.halt = false ∧ fetch s = .ok w ∧ decode w = .instr i :=
  ⟨start 0x6A7F id, 0x6A7F, .ldImm 10 0x7F, by decide, fetch_eq_ok.2 (by decide), by decide⟩

theorem witness_Fetch :
    (State.reset.setPc 0xFFE).pc.toNat + 1 < 4096 ∧ 4096 ≤ (State.reset.setPc 0xFFF).pc.toNat + 1 ∧
      (State.reset.setPc 0xFFF).halt = false := by decide

theorem witness_UnknownWord :
    ∃ s : State, s.halt = false ∧ fetch s = .ok 0x8008 ∧ ∀ r ∈ opcodeTable, r.matchesWord 0x8008 = false :=
  ⟨start 0x8008 id, by decide, fetch_eq_ok.2 (by decide), by decide⟩

theorem witness_Halted :
    haltedState.halt = true := by decide

theorem witness_FaultsWhereListed :
    boundsCauseOf .ret State.reset = some .stackUnderflow ∧ boundsCauseOf .ret (deep 1 0 State.reset) = none ∧
    boundsCauseOf (.call 0) (deep 16 0 State.reset) = some .stackOverflow ∧
    boundsCauseOf (.call 0) (deep 15 0 State.reset) = none ∧
    boundsCauseOf (.drw 0 0 15) (State.reset.setI 4082) = some (.memRead 4096) ∧
    boundsCauseOf (.drw 0 0 15) (State.reset.setI 4081) = none ∧
    boundsCauseOf (.drw 0 0 0) (State.reset.setI 4096) = none := by decide

theorem witness_FaultsWhereListed_memory_and_keys :
    boundsCauseOf (.ldBVx 0) (State.reset.setI 4094) = some (.memWrite 4096) ∧
    boundsCauseOf (.ldBVx 0) (State.reset.setI 4093) = none ∧
    boundsCauseOf (.ldMemVx 15) (State.reset.setI 4081) = some (.memWrite 4096) ∧
    boundsCauseOf (.ldMemVx 15) (State.reset.setI 4080) = none ∧
    boundsCauseOf (.ldVxMem 15) (State.reset.setI 4081) = some (.memRead 4096) ∧
    boundsCauseOf (.skp 2) (State.reset.setReg 2 16) = some (.keyIndex 16) ∧
    boundsCauseOf (.skp 2) (State.reset.setReg 2 15) = none ∧
    boundsCauseOf (.sknp 2) (State.reset.setReg 2 16) = some (.keyIndex 16) := by decide

theorem witness_FaultRecord :
    (∃ s r w, step s = .fault r ∧ fetch s = .ok w) ∧ (∃ s r c, step s = .fault r ∧ fetch s = .error c) :=
  ⟨have ⟨r, h⟩ := exists_fault (o := step (start 0x00EE id)) (by decide)
   ⟨_, r, 0x00EE, h, fetch_eq_ok.2 (by decide)⟩,
   have ⟨r, h⟩ := exists_fault (o := step (State.reset.setPc 0xFFF)) (by decide)
   ⟨_, r, .fetch, h, fetch_eq_error.2 (by decide)⟩⟩

/-- The hypotheses of StepWritesNoKeyAndNoStatus and SoundTimerIsNeverRead. -/
theorem witness_StepCompletes :
    ∃ s t, step s = .next t := ⟨_, exists_next (o := step (start 0x8014 id)) (by decide)⟩

/-- The hypotheses of OnlyTheNamedInstructionsWrite and OnlyTheListedRegistersAreWritten. -/
theorem witness_ExecCompletes :
    ∃ t, exec (.ldMemVx 15) (State.reset.setI 4080) = .next t ∧ mayWriteReg (.ldMemVx 15) 15 = false :=
  have ⟨t, h⟩ := exists_next (o := exec (.ldMemVx 15) (State.reset.setI 4080)) (by decide)
  ⟨t, h, by decide⟩

theorem witness_PcAfter :
    ∃ s t, s.halt = false ∧ fetch s = .ok 0x2300 ∧ decode 0x2300 = .instr (.call 0x300) ∧ step s = .next t ∧
      s.sp.val < 16 :=
  have ⟨t, h⟩ := exists_next (o := step (start 0x2300 (deep 15 0))) (by decide)
  ⟨start 0x2300 (deep 15 0), t, by decide, fetch_eq_ok.2 (by decide), by decide, h, by decide⟩

/-- A running state with 15 calls outstanding, each entry at the bound. -/
theorem witness_Inv :
    (start 0x2300 (deep 15 0x1000)).Inv :=
  { memory := by decide, faultRecorded := by decide, pcBound := by decide
    stackBound := fun _ k hk => by
      have : k < 16 := hk.trans (by decide)
      simp [start, deep] }

theorem witness_StepKeeps :
    ∃ s t, s.Inv ∧ step s = .next t :=
  have ⟨t, h⟩ := exists_next (o := step (start 0x2300 (deep 15 0x1000))) (by decide)
  ⟨_, t, witness_Inv, h⟩

theorem witness_Reachable :
    Reachable (setKeys 0x0001 (timerTick State.reset)) :=
  ⟨[.tick, .keys 0x0001], .more (.ticked _) (.more (.keysSet _ _) (.done _))⟩

theorem witness_HaltedUntilReset :
    ∃ t, haltedState.halt = true ∧ Run haltedState [.step, .tick, .keys 1] t ∧ Event.reset ∉ [.step, .tick, .keys 1] :=
  have ⟨t, h⟩ := exists_next (o := step haltedState) (by decide)
  ⟨_, by decide, .more (.stepped h) (.more (.ticked _) (.more (.keysSet _ _) (.done _))), by decide⟩

/-- A fatal step is part of a run. -/
theorem witness_FatalStepRuns :
    ∃ t, Reachable t ∧ t.halt = true :=
  have ⟨r, h⟩ := exists_fault (o := step State.reset) (by decide)
  ⟨haltedBy r, ⟨[.step], .more (.stepFaulted h (leftBy_haltedBy r)) (.done _)⟩, rfl⟩

/-- The hypotheses of EveryEventKeepsTheInvariant, with a fatal step, a load and a tick. -/
theorem witness_EveryEvent :
    State.reset.Inv ∧ (∃ t, Trans State.reset .step t ∧ t.halt = true) ∧ (∃ t, Trans State.reset (.load [1]) t) ∧
    ∃ t, Trans State.reset .tick t := by
  obtain ⟨r, h⟩ := exists_fault (o := step State.reset) (by decide)
  exact ⟨{ memory := by decide, faultRecorded := by decide, pcBound := by decide
           stackBound := fun _ k hk => absurd hk (Nat.not_lt_zero k) },
    ⟨haltedBy r, .stepFaulted h (leftBy_haltedBy r), rfl⟩,
    ⟨_, .loaded rfl⟩, ⟨_, .ticked _⟩⟩

/-- The fault clause of SoundTimerIsNeverRead. -/
theorem witness_StepFaults : ∃ r, step (State.reset.setSt 9) = .fault r := exists_fault (by decide)

theorem witness_Store :
    (4095 + [(1 : Byte)].length ≤ 4096) ∧ ([(1 : Byte)] ≠ [] ∧ 4096 < 4096 + [(1 : Byte)].length) ∧
      ([] : List Byte) = [] := by decide

theorem witness_CanonicalMemories :
    Memory.wf [(0x300, 1)] ∧ ∀ a, a < 4096 → Memory.read [(0x300, 1)] a = Memory.read [(0x300, 1)] a :=
  ⟨by decide, fun _ _ => rfl⟩

/-- A store of both bytes at PC, of the low byte alone at the top of memory, and of the high byte alone (program P7). -/
theorem witness_FetchSees :
    (∃ t, storeBytes State.reset 0x200 [0x12, 0x08] = .ok t ∧ t.pc.toNat + 1 < 4096) ∧
      (∃ t, storeBytes (State.reset.setPc 0xFFE) 0xFFF [0x08] = .ok t ∧ t.pc.toNat + 1 < 4096) ∧
      (∃ t, storeBytes State.reset 0x200 [0x12] = .ok t ∧ t.pc.toNat + 1 < 4096) :=
  ⟨⟨_, storeBytes_eq_ok.2 ⟨by decide, rfl⟩, by decide⟩, ⟨_, storeBytes_eq_ok.2 ⟨by decide, rfl⟩, by decide⟩,
    ⟨_, storeBytes_eq_ok.2 ⟨by decide, rfl⟩, by decide⟩⟩

theorem witness_LoadPlaces :
    (List.replicate 3584 (0 : Byte)).length ≤ 3584 ∧ 3584 < (List.replicate 3585 (0 : Byte)).length := by
  rw [List.length_replicate, List.length_replicate]; decide

theorem witness_Oversize :
    Trans State.reset (.load (List.replicate 3585 0)) State.reset :=
  .loadRefused (e := .loadSizeViolation) (by unfold loadImage; rw [test_imageFits_refuses_3585]; rfl)

theorem witness_FirstFetch :
    (∃ t, loadImage [0x00, 0xEE] (resetCore haltedState) = .ok t) ∧
      (∃ t, loadImage [0x12] (resetCore haltedState) = .ok t) ∧ ∃ t, loadImage [] (resetCore haltedState) = .ok t :=
  ⟨⟨_, rfl⟩, ⟨_, rfl⟩, ⟨_, rfl⟩⟩

theorem witness_Return :
    0 < (deep 1 0xFFF State.reset).sp.val ∧ 0 < (deep 16 0 State.reset).sp.val ∧ State.reset.sp.val = 0 ∧
      (nextOf (exec .ret (deep 1 0xFFF State.reset))).map (fun t => t.pc) = some 0xFFF := by decide

theorem witness_Jump :
    (State.reset.setPc 0xFFF).pc = 0xFFF ∧ ∃ s, s.halt = false ∧ fetch s = .ok 0x1200 ∧
      decode 0x1200 = .instr (.jp 0x200) ∧ zextAddr 0x200 = s.pc :=
  ⟨by decide, start 0x1200 id, by decide, fetch_eq_ok.2 (by decide), by decide, by decide⟩

theorem witness_Call :
    (deep 15 0 State.reset).sp.val < 16 ∧ (deep 16 0 State.reset).sp.val = 16 := by decide

/-- A call at the last free entry, and a state after a call with another popped entry above SP. -/
theorem witness_ReturnUndoesCall :
    (∃ t, exec (.call 0x300) (deep 15 0 State.reset) = .next t) ∧
    ∃ t u : State, exec (.call 0x300) (deep 0 7 State.reset) = .next t ∧ u.sp = t.sp ∧ u.stack ≠ t.stack ∧
      ∀ k : Fin 16, k.val < t.sp.val → u.stack[k] = t.stack[k] := by
  have h : (nextOf (exec (.call 0x300) (deep 0 7 State.reset))).any (fun t =>
      decide (t.stack.set 5 9 ≠ t.stack ∧ ∀ k : Fin 16, k.val < t.sp.val → (t.stack.set 5 9)[k] = t.stack[k])) = true :=
  by
    decide
  obtain ⟨t, ht⟩ := exists_next (o := exec (.call 0x300) (deep 0 7 State.reset)) (by decide)
  rw [ht] at h
  simp only [nextOf, Option.any_some, decide_eq_true_eq] at h
  exact ⟨exists_next (by decide), t, { t with stack := t.stack.set 5 9 }, ht, rfl, h.1, h.2⟩

theorem witness_LoadImmediate :
    ∃ s, s.halt = false ∧ fetch s = .ok 0x6F01 ∧ decode 0x6F01 = .instr (.ldImm 15 0x01) :=
  ⟨start 0x6F01 id, by decide, fetch_eq_ok.2 (by decide), by decide⟩

/-- The inequalities of the ALU and draw statements (a destination that is not VF, a register that is neither). -/
theorem witness_FlagRegisterOrNot :
    (14 : Reg) ≠ 15 ∧ (13 : Reg) ≠ 14 ∧ (13 : Reg) ≠ 15 := by decide

theorem witness_Bcd :
    (State.reset.setI 4093).i.toNat + 2 < 4096 ∧ 4096 ≤ (State.reset.setI 4094).i.toNat + 2 := by decide

theorem witness_DumpAndLoad :
    (State.reset.setI 4080).i.toNat + (15 : Reg).val < 4096 ∧ 4096 ≤ (State.reset.setI 4081).i.toNat + (15 : Reg).val ∧
      (State.reset.setI 4095).i.toNat + (0 : Reg).val < 4096 := by decide

theorem witness_LoadRestores :
    ∃ t v, exec (.ldMemVx 3) (State.reset.setI 0x400) = .next t ∧ exec (.ldVxMem 3) (t.setI 0x400) = .next v ∧
      (t.setI 0x400).mem = t.mem ∧ (t.setI 0x400).i = (State.reset.setI 0x400).i := by
  obtain ⟨t, h⟩ := exists_next (o := exec (.ldMemVx 3) (State.reset.setI 0x400)) (by decide)
  obtain ⟨v, h'⟩ := exists_next (o := exec (.ldVxMem 3) (t.setI 0x400)) rfl
  exact ⟨t, v, h, h', rfl, rfl⟩

theorem witness_Draw :
    (Instr.drw 0 0 15).WellFormed ∧ (State.reset.setI 4081).i.toNat + 15 ≤ 4096 ∧ (Instr.drw 0 0 0).WellFormed ∧
      litAt (lit 3 0 State.reset).fb 3 0 = true ∧ spriteCovers (lit 3 0 State.reset) 0 1 5 3 0 = true ∧
      (∀ px py, litAt State.reset.fb px py = true → spriteCovers State.reset 0 1 5 px py = false) :=
  ⟨by decide, by decide, by decide, by decide, by decide, fun px py h => absurd h (by simp [State.reset, litAt])⟩

theorem witness_DrawOutside :
    0 < 15 ∧ 4096 < (State.reset.setI 4082).i.toNat + 15 ∧ 4096 < (State.reset.setI 4096).i.toNat + 1 := by decide

theorem witness_DrawTwice :
    ∃ t u, (Instr.drw 0 1 5).WellFormed ∧ (0 : Reg) ≠ 15 ∧ (1 : Reg) ≠ 15 ∧ exec (.drw 0 1 5) State.reset = .next t ∧
      exec (.drw 0 1 5) t = .next u ∧ ∃ px py, litAt State.reset.fb px py = false ∧ litAt t.fb px py = true := by
  have h : (nextOf (exec (.drw 0 1 5) State.reset)).any
      (fun t => (nextOf (exec (.drw 0 1 5) t)).isSome && litAt t.fb 0 0) = true := by decide
  obtain ⟨t, ht⟩ := exists_next (o := exec (.drw 0 1 5) State.reset) (by decide)
  rw [ht] at h
  simp only [nextOf, Option.any_some, Bool.and_eq_true] at h
  obtain ⟨u, hu⟩ := exists_next h.1
  exact ⟨t, u, by decide, by decide, by decide, ht, hu, 0, 0, by decide, h.2⟩

theorem witness_Clip :
    spriteCell .clip 63 31 0 0 = some (63, 31) ∧ spriteCell .clip 200 100 1 0 = some (9, 4) := by decide

theorem witness_KeySkips :
    (State.reset.setReg 2 15).reg 2 = 15 ∧ ((State.reset.setReg 2 15).reg 2).toNat < 16 ∧
      16 ≤ ((State.reset.setReg 2 16).reg 2).toNat := by decide

theorem witness_AwaitKey :
    ((setKeys 0x8000 State.reset).pressed 15 = true ∧ ∀ j : Fin 16, j < 15 → (setKeys 0x8000 State.reset).pressed j = false) ∧
      ∀ k, State.reset.pressed k = false := by decide

theorem witness_AwaitKeyStep :
    ∃ s, s.halt = false ∧ fetch s = .ok 0xF30A ∧ decode 0xF30A = .instr (.ldVxK 3) ∧ ∀ k, s.pressed k = false :=
  ⟨start 0xF30A id, by decide, fetch_eq_ok.2 (by decide), by decide, by decide⟩

theorem witness_PoppedEntries :
    ∃ s s', s ≠ s' ∧ SameVisibleStack s s' ∧ (∃ t, step s = .next t) ∧
      ∃ r, step (State.reset.setPc 0xFFF) = .fault r :=
  ⟨start 0x2300 id, start 0x2300 (deep 0 7), by decide, ⟨by decide, by decide⟩, exists_next (by decide),
    exists_fault (by decide)⟩

end Sys2Proof.Tests
end

section
/-! PROOFS. What an instruction that completes does to the state (spec/10_state.md R22 to R39): the inversion lemmas of
the instructions that can fault or wait, the frame of every instruction, and the registers it may write. -/

namespace Sys2Proof.Machine

/-! ## Instructions that can fault or wait -/

/-- A return with an entry to pop: PC is the popped entry, and the stack array keeps its contents (R140, R28). -/
theorem exec_ret_of_pos {s : State} (h : 0 < s.sp.val) :
    exec .ret s =
      .next { s with sp := ⟨s.sp.val - 1, by omega⟩, pc := s.stack[s.sp.val - 1]'(by omega) } := by
  have hpop : s.pop = some (s.stack[s.sp.val - 1]'(by omega), { s with sp := ⟨s.sp.val - 1, by omega⟩ }) := dif_pos h
  simp only [exec, execRet, hpop]
  rfl

/-- A return with SP = 0 is a stack underflow (R140). -/
theorem exec_ret_of_empty {s : State} (h : s.sp.val = 0) :
    exec .ret s = .fault (.boundsViolation .stackUnderflow (some (encode .ret)) s.pc0) := by
  simp only [exec, execRet, pop_eq_none.2 h]
  rfl

/-- A return that completes popped an entry (R140). -/
theorem exec_ret_eq_next {s t : State} (h : exec .ret s = .next t) :
    ∃ _ : 0 < s.sp.val,
      t = { s with sp := ⟨s.sp.val - 1, by omega⟩, pc := s.stack[s.sp.val - 1]'(by omega) } := by
  rcases Nat.eq_zero_or_pos s.sp.val with h0 | hpos
  · rw [exec_ret_of_empty h0] at h
    cases h
  · rw [exec_ret_of_pos hpos] at h
    exact ⟨hpos, (Host.Outcome.next.inj h).symm⟩

/-- A call with room on the stack: PC is pushed, then set to the target (R142). -/
theorem exec_call_of_room {s : State} (nnn : Addr12) (room : s.sp.val < 16) :
    exec (.call nnn) s =
      .next { s with stack := s.stack.set s.sp.val s.pc room, sp := ⟨s.sp.val + 1, by omega⟩, pc := zextAddr nnn } := by
  have hpush : s.push s.pc =
      some { s with stack := s.stack.set s.sp.val s.pc room, sp := ⟨s.sp.val + 1, by omega⟩ } := dif_pos room
  simp only [exec, execCall, hpush]
  rfl

/-- A call with SP = 16 is a stack overflow (R142). -/
theorem exec_call_of_full {s : State} (nnn : Addr12) (h : s.sp.val = 16) :
    exec (.call nnn) s = .fault (.boundsViolation .stackOverflow (some (encode (.call nnn))) s.pc0) := by
  simp only [exec, execCall, push_eq_none.2 h]
  rfl

/-- A call that completes had room for its entry (R142). -/
theorem exec_call_eq_next {nnn : Addr12} {s t : State} (h : exec (.call nnn) s = .next t) :
    ∃ room : s.sp.val < 16,
      t = { s with stack := s.stack.set s.sp.val s.pc room, sp := ⟨s.sp.val + 1, by omega⟩, pc := zextAddr nnn } := by
  rcases Nat.lt_or_ge s.sp.val 16 with room | hfull
  · rw [exec_call_of_room nnn room] at h
    exact ⟨room, (Host.Outcome.next.inj h).symm⟩
  · rw [exec_call_of_full nnn (by omega)] at h
    cases h

/-- await-key always completes: with no key pressed PC goes back to `pc0`, else Vx is the lowest key (R232). -/
theorem exec_ldVxK_eq_next {x : Reg} {s t : State} (h : exec (.ldVxK x) s = .next t) :
    (s.lowestKey = none ∧ t = s.setPc s.pc0) ∨
      ∃ k, s.lowestKey = some k ∧ t = s.setReg x (BitVec.ofNat 8 k.val) := by
  change execLdVxK x s = _ at h
  unfold execLdVxK at h
  split at h
  next hk => exact .inl ⟨hk, (Host.Outcome.next.inj h).symm⟩
  next k hk => exact .inr ⟨k, hk, (Host.Outcome.next.inj h).symm⟩

/-- A draw that completes replaces the framebuffer and writes VF, nothing else (R211). -/
theorem exec_drw_eq_next {x y : Reg} {n : Nat} {s t : State} (h : exec (.drw x y n) s = .next t) :
    ∃ f b, t = (s.setFb f).setReg vf b := by
  obtain ⟨rows, -, hk⟩ := orFatal_eq_next h
  exact ⟨_, _, (Host.Outcome.next.inj hk).symm⟩

/-- A key operand in bounds is the value of its register (R230, D10). -/
theorem keyOperand_eq_ok {x : Reg} {s : State} {k : Fin 16} (h : keyOperand .fault x s = .ok k) :
    k.val = (s.reg x).toNat := by
  by_cases hlt : (s.reg x).toNat < 16
  · rw [keyOperand_of_lt hlt] at h
    cases h
    rfl
  · rw [keyOperand_of_ge (Nat.not_lt.1 hlt)] at h
    cases h

/-- A skip-if-key-pressed that completes skips on the key its register names (R230). -/
theorem exec_skp_eq_next {x : Reg} {s t : State} (h : exec (.skp x) s = .next t) :
    t = s.skipIf (s.key.getLsbD (s.reg x).toNat) := by
  obtain ⟨k, hk, h⟩ := orFatal_eq_next h
  rw [← keyOperand_eq_ok hk]
  exact (Host.Outcome.next.inj h).symm

/-- A skip-if-key-not-pressed that completes skips unless its key is pressed (R231). -/
theorem exec_sknp_eq_next {x : Reg} {s t : State} (h : exec (.sknp x) s = .next t) :
    t = s.skipIf (!s.key.getLsbD (s.reg x).toNat) := by
  obtain ⟨k, hk, h⟩ := orFatal_eq_next h
  rw [← keyOperand_eq_ok hk]
  exact (Host.Outcome.next.inj h).symm

/-- A store-BCD that completes is a block store of the three digits (R193). -/
theorem exec_ldBVx_eq_next {x : Reg} {s t : State} (h : exec (.ldBVx x) s = .next t) :
    storeBytes s s.base (bcdDigits (s.reg x)) = .ok t := by
  obtain ⟨u, hu, h⟩ := orFatal_eq_next h
  cases Host.Outcome.next.inj h
  exact hu

/-- A register-dump that completes is a block store of V0..Vx, then the advance of I (R194). -/
theorem exec_ldMemVx_eq_next {x : Reg} {s t : State} (h : exec (.ldMemVx x) s = .next t) :
    ∃ u, storeBytes s s.base (s.firstRegs (x.val + 1)) = .ok u ∧ t = u.advanceI x := by
  obtain ⟨u, hu, h⟩ := orFatal_eq_next h
  exact ⟨u, hu, (Host.Outcome.next.inj h).symm⟩

/-- A register-load that completes fills V0..Vx, and I advances (R195). -/
theorem exec_ldVxMem_eq_next {x : Reg} {s t : State} (h : exec (.ldVxMem x) s = .next t) :
    ∃ bs, bs.length = x.val + 1 ∧ t = (s.loadRegs bs).advanceI x := by
  obtain ⟨bs, hbs, h⟩ := orFatal_eq_next h
  obtain ⟨-, rfl⟩ := loadBytes_eq_ok.1 hbs
  exact ⟨_, by simp, (Host.Outcome.next.inj h).symm⟩

/-! ## The frame of an instruction -/

/-- What an instruction that turns `s` into `t` may have written, part by part: who writes I, SP and STACK, DT, ST, FB,
MEM and the count of random bytes (R23 to R33, R38, R39), who moves PC away from `pc0 + 2` (R25), and that nobody writes
KEY, HALT or FAULT (R32, R34). -/
structure ExecFrame (i : Instr) (s t : State) : Prop where
  index : i.mnemonic ∈ ["LD_I", "ADD_I_VX", "LD_F_VX", "LD_MEM_VX", "LD_VX_MEM"] ∨ t.i = s.i
  stack : i.mnemonic ∈ ["CALL", "RET"] ∨ (t.sp = s.sp ∧ t.stack = s.stack)
  delay : i.mnemonic = "LD_DT_VX" ∨ t.dt = s.dt
  sound : i.mnemonic = "LD_ST_VX" ∨ t.st = s.st
  screen : i.mnemonic ∈ ["CLS", "DRW"] ∨ t.fb = s.fb
  memory : i.mnemonic ∈ ["LD_B_VX", "LD_MEM_VX"] ∨ t.mem = s.mem
  draws : i.mnemonic = "RND" ∨ t.draws = s.draws
  pc : i.mnemonic ∈ ["RET", "JP", "CALL", "JP_V0", "SE_IMM", "SNE_IMM", "SE_REG", "SNE_REG", "SKP", "SKNP", "LD_VX_K"] ∨
    t.pc = s.pc
  key : t.key = s.key
  halt : t.halt = s.halt
  fault : t.fault = s.fault

/-- Every instruction that completes keeps to its frame. -/
theorem exec_frame {i : Instr} {s t : State} (h : exec i s = .next t) : ExecFrame i s t := by
  cases i
  case ret =>
    obtain ⟨_, rfl⟩ := exec_ret_eq_next h
    constructor <;> simp [Instr.mnemonic]
  case call nnn =>
    obtain ⟨_, rfl⟩ := exec_call_eq_next h
    constructor <;> simp [Instr.mnemonic]
  case drw x y n =>
    obtain ⟨f, b, rfl⟩ := exec_drw_eq_next h
    constructor <;> simp [Instr.mnemonic]
  case skp x =>
    rw [exec_skp_eq_next h]
    constructor <;> simp [Instr.mnemonic]
  case sknp x =>
    rw [exec_sknp_eq_next h]
    constructor <;> simp [Instr.mnemonic]
  case ldVxK x =>
    obtain ⟨_, rfl⟩ | ⟨k, _, rfl⟩ := exec_ldVxK_eq_next h <;> constructor <;> simp [Instr.mnemonic]
  case ldBVx x =>
    obtain ⟨_, rfl⟩ := storeBytes_eq_ok.1 (exec_ldBVx_eq_next h)
    constructor <;> simp [Instr.mnemonic]
  case ldMemVx x =>
    obtain ⟨u, hu, rfl⟩ := exec_ldMemVx_eq_next h
    obtain ⟨_, rfl⟩ := storeBytes_eq_ok.1 hu
    constructor <;> simp [Instr.mnemonic]
  case ldVxMem x =>
    obtain ⟨bs, _, rfl⟩ := exec_ldVxMem_eq_next h
    constructor <;> simp [Instr.mnemonic]
  -- the other instructions answer a next state outright
  all_goals
    cases Host.Outcome.next.inj h
    constructor <;> simp [Instr.mnemonic]

/-- Settles O13: the named instructions are those of the frame. -/
theorem onlyTheNamedInstructionsWrite : Obligations.OnlyTheNamedInstructionsWrite := by
  intro i s t h
  have f := exec_frame h
  exact ⟨f.index, f.stack, f.delay, f.sound, f.screen, f.memory, f.draws⟩

/-- Settles O14, register by register from what each instruction does to `V`. -/
theorem onlyTheListedRegistersAreWritten : Obligations.OnlyTheListedRegistersAreWritten := by
  intro i s t h r hr
  cases i
  case ret => obtain ⟨_, rfl⟩ := exec_ret_eq_next h; rfl
  case call nnn => obtain ⟨_, rfl⟩ := exec_call_eq_next h; rfl
  case skp x => simp [exec_skp_eq_next h]
  case sknp x => simp [exec_sknp_eq_next h]
  case ldBVx x => obtain ⟨_, rfl⟩ := storeBytes_eq_ok.1 (exec_ldBVx_eq_next h); rfl
  case ldMemVx x =>
    obtain ⟨u, hu, rfl⟩ := exec_ldMemVx_eq_next h
    obtain ⟨_, rfl⟩ := storeBytes_eq_ok.1 hu
    rfl
  case drw x y n =>
    obtain ⟨f, b, rfl⟩ := exec_drw_eq_next h
    have hne : r ≠ vf := by simpa [mayWriteReg] using hr
    simp [hne]
  case ldVxK x =>
    have hne : r ≠ x := by simpa [mayWriteReg] using hr
    obtain ⟨_, rfl⟩ | ⟨k, _, rfl⟩ := exec_ldVxK_eq_next h <;> simp [hne]
  case ldVxMem x =>
    obtain ⟨bs, hlen, rfl⟩ := exec_ldVxMem_eq_next h
    have hlt : x.val < r.val := by simpa [mayWriteReg] using hr
    rw [State.reg_advanceI, State.reg_loadRegs, dif_neg (by omega)]
  -- Vx alone
  case ldImm | addImm | ldReg | orReg | andReg | xorReg | rnd | ldVxDt =>
    cases Host.Outcome.next.inj h
    simp only [mayWriteReg, beq_eq_false_iff_ne] at hr
    simp [hr]
  -- Vx and the flag
  case addReg | sub | subn | shr | shl =>
    cases Host.Outcome.next.inj h
    simp only [mayWriteReg, Bool.or_eq_false_iff, beq_eq_false_iff_ne] at hr
    simp [params, hr]
  -- no register
  all_goals
    cases Host.Outcome.next.inj h
    simp

/-- Settles O12: a step that completes is a halted one or an instruction, which keeps to its frame; a fatal one keeps
KEY by what it leaves (log 31). -/
theorem stepWritesNoKeyAndNoStatus : Obligations.StepWritesNoKeyAndNoStatus := by
  have completes : ∀ s t : State, step s = .next t → t.key = s.key ∧ t.halt = s.halt ∧ t.fault = s.fault := by
    intro s t h
    obtain ⟨_, rfl⟩ | ⟨_, w, i, _, _, he⟩ := step_eq_next h
    · exact ⟨rfl, rfl, rfl⟩
    · exact ⟨(exec_frame he).key, (exec_frame he).halt, (exec_frame he).fault⟩
  refine ⟨completes, fun s t h => ?_⟩
  cases h with
  | stepped h => exact (completes s t h).1
  | stepFaulted _ left =>
    obtain ⟨-, -, hkey, -, -⟩ := left
    exact hkey

end Sys2Proof.Machine
end

section
/-! PROOFS. PC after each instruction (spec/10_state.md R25), and the canonical form of memory (log 24). -/

namespace Sys2Proof.Machine

/-! ## The table of R25 -/

@[simp] theorem zextAddr_toNat (a : Addr12) : (zextAddr a).toNat = a.toNat := by
  have := a.isLt
  rw [BitVec.toNat_setWidth]
  omega

/-- The target of jump-with-offset does not wrap (R26). -/
theorem zextAddr_add_zextByte_toNat (a : Addr12) (b : Byte) :
    (zextAddr a + zextByte b).toNat = a.toNat + b.toNat := by
  have := a.isLt
  have := b.isLt
  rw [BitVec.toNat_add, zextAddr_toNat, BitVec.toNat_setWidth]
  omega

/-- A skip from a fetched address leads to `pc0 + 4` or `pc0 + 2`, and neither wraps (R26, R148). -/
theorem skipIf_advance_pc_toNat {s : State} {w : Word} (hf : fetch s = .ok w) (c : Bool) :
    (s.advance.skipIf c).pc.toNat = if c then s.pc.toNat + 4 else s.pc.toNat + 2 := by
  have hadv := advance_pc_toNat hf
  have hb := (fetch_eq_ok.1 hf).1
  cases c
  · exact hadv
  · have h2 : (2 : Word).toNat = 2 := rfl
    rw [State.skipIf_pc, if_pos rfl, if_pos rfl, BitVec.toNat_add, hadv, h2]
    omega

/-- await-key finds no key exactly when KEY is 0 (R232, R34). -/
theorem lowestKey_eq_none_iff_key {s : State} : s.lowestKey = none ↔ s.key = 0 := by
  rw [lowestKey_eq_none]
  constructor
  · intro h
    apply BitVec.eq_of_getLsbD_eq
    intro k hk
    simpa [State.pressed] using h ⟨k, hk⟩
  · intro h k
    simp [State.pressed, h]

/-- PC after an instruction that a step executes, as R25 lists it. -/
theorem exec_advance_pc_toNat {i : Instr} {s t : State} {w : Word} (hf : fetch s = .ok w)
    (h : exec i s.advance = .next t) : t.pc.toNat = pcAfter i s := by
  have frame := exec_frame h
  have hadv := advance_pc_toNat hf
  have hskip := skipIf_advance_pc_toNat hf
  cases i
  case ret =>
    obtain ⟨hsp, rfl⟩ := exec_ret_eq_next h
    have htop : pcAfter .ret s = (s.stack[s.sp.val - 1]'(by omega)).toNat := dif_pos hsp
    exact htop.symm
  case jp nnn =>
    cases Host.Outcome.next.inj h
    exact zextAddr_toNat nnn
  case call nnn =>
    obtain ⟨_, rfl⟩ := exec_call_eq_next h
    exact zextAddr_toNat nnn
  case jpV0 nnn =>
    cases Host.Outcome.next.inj h
    exact zextAddr_add_zextByte_toNat nnn _
  case seImm | sneImm | seReg | sneReg =>
    cases Host.Outcome.next.inj h
    rw [hskip]
    simp [pcAfter]
  case skp x =>
    rw [exec_skp_eq_next h, hskip]
    rfl
  case sknp x =>
    rw [exec_sknp_eq_next h, hskip]
    cases hk : s.key.getLsbD (s.reg x).toNat <;> simp [pcAfter, hk]
  case ldVxK x =>
    have hnone : s.advance.lowestKey = none ↔ s.key = 0 := lowestKey_eq_none_iff_key
    obtain ⟨hk, rfl⟩ | ⟨k, hk, rfl⟩ := exec_ldVxK_eq_next h
    · simp [pcAfter, hnone.1 hk]
    · have hne : s.key ≠ 0 := fun e => by simp [hnone.2 e] at hk
      rw [State.setReg_pc, hadv]
      simp only [pcAfter, if_neg hne]
  all_goals
    rw [frame.pc.resolve_left (by simp [Instr.mnemonic]), hadv]
    rfl

/-- A running machine that fetched and decoded an instruction executes it with PC advanced (R120, R122). -/
theorem step_eq_exec {s : State} {w : Word} {i : Instr} (hh : s.halt = false) (hf : fetch s = .ok w)
    (hd : decode w = .instr i) : step s = exec i s.advance := by
  simp [step, hh, hf, hd]

/-- Settles O15: PC by the table, and the pushed entry from what a call does. -/
theorem pcAfterEachInstruction : Obligations.PcAfterEachInstruction := by
  intro s t w i hh hf hd h
  rw [step_eq_exec hh hf hd] at h
  refine ⟨exec_advance_pc_toNat hf h, ?_⟩
  rintro nnn hsp rfl
  obtain ⟨_, rfl⟩ := exec_call_eq_next h
  simpa using advance_pc_toNat hf

/-! ## The canonical form of memory -/

/-- Where addresses rise, every listed cell reads as its byte. -/
theorem Memory.read_of_mem {m : Memory} (rising : m.Pairwise (fun c d => c.1 < d.1)) {c : Host.Cell} (hc : c ∈ m) :
    Memory.read m c.1 = c.2 := by
  induction m with
  | nil => cases hc
  | cons d m ih =>
    obtain ⟨hd, rising⟩ := List.pairwise_cons.1 rising
    rcases List.mem_cons.1 hc with rfl | hc
    · simp [Memory.read]
    · rw [Memory.read, if_neg (Nat.ne_of_lt (hd c hc)), ih rising hc]

/-- An address that does not read as the reset contents is listed, with what it reads as. -/
theorem Memory.mem_of_read_ne {m : Memory} {a : Nat} (h : Memory.read m a ≠ Memory.unlisted a) :
    (a, Memory.read m a) ∈ m := by
  induction m with
  | nil => exact absurd rfl h
  | cons d m ih =>
    unfold Memory.read at h ⊢
    split at h
    next ha => rw [if_pos ha, ← ha]; exact List.mem_cons_self
    next ha => rw [if_neg ha]; exact List.mem_cons_of_mem d (ih h)

/-- In a canonical memory the listed cells are those that read otherwise than after reset. -/
theorem Memory.mem_iff_read {m : Memory} (hm : Memory.wf m) (c : Host.Cell) :
    c ∈ m ↔ c.1 < 4096 ∧ c.2 ≠ Memory.unlisted c.1 ∧ Memory.read m c.1 = c.2 := by
  constructor
  · intro hc
    exact ⟨(hm.2 c hc).1, (hm.2 c hc).2, Memory.read_of_mem hm.1 hc⟩
  · rintro ⟨-, hne, hread⟩
    rw [← hread] at hne
    simpa only [hread] using Memory.mem_of_read_ne hne

/-- Settles O22: two canonical lists with the same reads have the same cells, in the same order. -/
theorem canonicalMemoriesAreEqualByReads : Obligations.CanonicalMemoriesAreEqualByReads := by
  intro m n hm hn hread
  have irrefl : Std.Irrefl (fun c d : Host.Cell => c.1 < d.1) := ⟨fun c => Nat.lt_irrefl c.1⟩
  have antisymm : Std.Antisymm (fun c d : Host.Cell => c.1 < d.1) :=
    ⟨fun _ _ h h' => absurd h' (Nat.lt_asymm h)⟩
  refine hm.1.eq_of_mem_iff hn.1 fun c => ?_
  rw [Memory.mem_iff_read hm, Memory.mem_iff_read hn]
  exact and_congr_right fun hc => by rw [hread c.1 hc]

end Sys2Proof.Machine
end

section
/-! PROOFS. The invariant of R41: it holds at reset, every step and every other event keeps it, so it holds of every
reachable state. What reset leaves, and that only a reset ends a halt (R40, R256). -/

namespace Sys2Proof.Machine

/-! ## Each part of the invariant over an instruction -/

/-- The bound on the stack entries in use (R28, R41), as `State.Inv` states it for a running machine. -/
def State.StackBounded (s : State) : Prop := ∀ (k : Nat) (h : k < s.sp.val), (s.stack[k]'(by omega)).toNat ≤ 0x1000

/-- The bound is about SP and STACK only. -/
theorem State.StackBounded.congr {s t : State} (hb : s.StackBounded) (hsp : t.sp = s.sp) (hst : t.stack = s.stack) :
    t.StackBounded := by
  intro k hk
  simp only [hst]
  exact hb k (hsp ▸ hk)

/-- A call pushes its PC, a return drops an entry, no other instruction touches the stack (R27, R28). -/
theorem exec_keeps_stackBounded {i : Instr} {s t : State} (h : exec i s = .next t) (hb : s.StackBounded)
    (hpc : s.pc.toNat ≤ 0x1000) : t.StackBounded := by
  have frame := exec_frame h
  cases i
  case ret =>
    obtain ⟨hsp, rfl⟩ := exec_ret_eq_next h
    exact fun k hk => hb k (Nat.lt_of_lt_pred hk)
  case call nnn =>
    obtain ⟨room, rfl⟩ := exec_call_eq_next h
    intro k hk
    have hk : k < s.sp.val + 1 := hk
    by_cases heq : s.sp.val = k
    · simpa [heq] using hpc
    · simpa [Vector.getElem_set_ne, heq] using hb k (by omega)
  all_goals
    obtain ⟨hsp, hst⟩ := frame.stack.resolve_left (by simp [Instr.mnemonic])
    exact hb.congr hsp hst

/-- Only the two block stores write memory, and they keep its canonical form (R39, log 24). -/
theorem exec_keeps_memory_wf {i : Instr} {s t : State} (h : exec i s = .next t) (hm : Memory.wf s.mem) :
    Memory.wf t.mem := by
  have frame := exec_frame h
  cases i
  case ldBVx x => exact storeBytes_wf (exec_ldBVx_eq_next h) hm
  case ldMemVx x =>
    obtain ⟨u, hu, rfl⟩ := exec_ldMemVx_eq_next h
    rw [State.advanceI_mem]
    exact storeBytes_wf hu hm
  all_goals
    rw [frame.memory.resolve_left (by simp [Instr.mnemonic])]
    exact hm

/-- The largest PC of R25's table from a fetched address is that of a jump-with-offset, 0xFFF + 0xFF (R26). -/
theorem pcAfter_le {s : State} {w : Word} (hf : fetch s = .ok w) (hb : s.StackBounded) (i : Instr) :
    pcAfter i s ≤ 0x10FE := by
  have hpc := (fetch_eq_ok.1 hf).1
  cases i
  case ret =>
    dsimp only [pcAfter]
    split
    next hsp => exact (hb (s.sp.val - 1) (by omega)).trans (by decide)
    next => exact Nat.zero_le _
  case jp nnn | call nnn => exact nnn.isLt.le.trans (by decide)
  case jpV0 nnn =>
    have := nnn.isLt
    have := (s.reg 0).isLt
    dsimp only [pcAfter]
    omega
  case seImm | sneImm | seReg | sneReg | skp | sknp | ldVxK =>
    dsimp only [pcAfter]
    split <;> omega
  all_goals
    dsimp only [pcAfter]
    omega

/-! ## The invariant -/

/-- Settles O16: memory is empty, nothing is recorded, PC is 0x200 and the stack is empty. -/
theorem resetMeetsTheInvariant : Obligations.ResetMeetsTheInvariant where
  memory := Memory.wf_nil
  faultRecorded := rfl
  pcBound _ := by decide
  stackBound _ k hk := absurd hk (Nat.not_lt_zero k)

/-- Settles O17: a halted machine stays as it is; else PC obeys R25's table, the stack gains at most the address after a
fetched word, memory is written by block stores only, and HALT and FAULT are kept. -/
theorem stepKeepsTheInvariant : Obligations.StepKeepsTheInvariant := by
  intro s t hinv h
  obtain ⟨_, rfl⟩ | ⟨hh, w, i, hf, _, he⟩ := step_eq_next h
  · exact hinv
  · have frame := exec_frame he
    have hb : s.StackBounded := hinv.stackBound hh
    have hadv : s.advance.pc.toNat ≤ 0x1000 := by
      have := (fetch_eq_ok.1 hf).1
      rw [advance_pc_toNat hf]
      omega
    exact {
      memory := exec_keeps_memory_wf he hinv.memory
      faultRecorded := by rw [frame.fault, frame.halt]; exact hinv.faultRecorded
      pcBound := fun _ => exec_advance_pc_toNat hf he ▸ pcAfter_le hf hb i
      stackBound := fun _ => exec_keeps_stackBounded (s := s.advance) he hb hadv }

/-- A load that is not refused writes an image that fits to 0x200 and up, nothing else (R293). -/
theorem loadImage_eq_ok {bytes : List Byte} {s t : State} (h : loadImage bytes s = .ok t) :
    bytes.length ≤ 3584 ∧ t = s.setMem (Memory.writeBytes s.mem 0x200 bytes) := by
  unfold loadImage at h
  split at h
  next hfits =>
    cases h
    exact ⟨by simpa [imageFits] using hfits, rfl⟩
  next => cases h

/-- The reset transaction leaves a state that meets the invariant, which says nothing of KEY and the count. -/
theorem resetCore_inv (s : State) : (resetCore s).Inv :=
  ⟨resetMeetsTheInvariant.memory, rfl, resetMeetsTheInvariant.pcBound, resetMeetsTheInvariant.stackBound⟩

/-- What a fatal step leaves meets the invariant: it is halted with a record, and memory is canonical (R255, D15). -/
theorem leftBy_inv {s t : State} {r : Fault} (left : LeftBy s r t) : t.Inv := by
  obtain ⟨hhalt, hfault, -, -, hmem⟩ := left
  exact ⟨hmem, by rw [hfault, hhalt]; rfl, by simp [hhalt], by simp [hhalt]⟩

/-- Settles O18: event by event, with O17 for a step that completes. -/
theorem everyEventKeepsTheInvariant : Obligations.EveryEventKeepsTheInvariant := by
  intro s t e hinv h
  cases h with
  | reset => exact resetCore_inv s
  | loaded h =>
    obtain ⟨hlen, rfl⟩ := loadImage_eq_ok h
    exact ⟨Memory.wf_writeBytes hinv.memory (by omega), hinv.faultRecorded, hinv.pcBound, hinv.stackBound⟩
  | loadRefused => exact hinv
  | stepped h => exact stepKeepsTheInvariant s t hinv h
  | stepFaulted _ left => exact leftBy_inv left
  | ticked => exact ⟨hinv.memory, hinv.faultRecorded, hinv.pcBound, hinv.stackBound⟩
  | keysSet => exact ⟨hinv.memory, hinv.faultRecorded, hinv.pcBound, hinv.stackBound⟩

/-- A run keeps the invariant. -/
theorem run_inv {s t : State} {es : List Event} (h : Run s es t) (hinv : s.Inv) : t.Inv := by
  induction h with
  | done => exact hinv
  | more h _ ih => exact ih (everyEventKeepsTheInvariant _ _ _ hinv h)

/-- Settles O59: the invariant holds at reset and a run keeps it. -/
theorem reachableStatesMeetTheInvariant : Obligations.ReachableStatesMeetTheInvariant := by
  rintro s ⟨es, h⟩
  exact run_inv h resetMeetsTheInvariant

/-! ## Halt and reset -/

/-- No event but a reset ends a halt or changes its record (R126, R256). -/
theorem trans_keeps_halt {s t : State} {e : Event} (h : Trans s e t) (hh : s.halt = true) (he : e ≠ .reset) :
    t.halt = true ∧ t.fault = s.fault := by
  cases h with
  | reset => exact absurd rfl he
  | loaded h =>
    obtain ⟨-, rfl⟩ := loadImage_eq_ok h
    exact ⟨hh, rfl⟩
  | loadRefused => exact ⟨hh, rfl⟩
  | stepped h =>
    obtain ⟨-, hhalt, hfault⟩ := stepWritesNoKeyAndNoStatus.1 s t h
    exact ⟨hhalt.trans hh, hfault⟩
  | stepFaulted h => simp [(step_eq_fault h).1] at hh
  | ticked => exact ⟨hh, rfl⟩
  | keysSet => exact ⟨hh, rfl⟩

/-- Settles O19, by induction on the run: each of its events is no reset. -/
theorem haltedUntilReset : Obligations.HaltedUntilReset := by
  intro s t es hh h hes
  induction h with
  | done => exact ⟨hh, rfl⟩
  | more h _ ih =>
    obtain ⟨he, hes⟩ := List.ne_and_not_mem_of_not_mem_cons hes
    obtain ⟨hhalt, hfault⟩ := trans_keeps_halt h hh he.symm
    obtain ⟨hhalt', hfault'⟩ := ih hhalt hes
    exact ⟨hhalt', hfault'.trans hfault⟩

/-- The font is what unlisted cells below 80 read as (R40, R62). -/
theorem unlisted_of_lt {a : Nat} (h : a < 80) : fontPatterns[a]? = some (Memory.unlisted a) := by
  have hlen : a < fontPatterns.length := h
  simp [Memory.unlisted, hlen]

/-- Above the font unlisted cells read as 0 (R40). -/
theorem unlisted_of_ge {a : Nat} (h : 80 ≤ a) : Memory.unlisted a = 0 := by
  have hlen : fontPatterns.length ≤ a := h
  simp [Memory.unlisted, hlen]

/-- Settles O20: the reset state's own values, which the reset transaction leaves too but for KEY and the count. -/
theorem resetLeavesTheResetValues : Obligations.ResetLeavesTheResetValues := by
  have zeroReg : ∀ r, State.reset.reg r = 0 := by simp [State.reg, State.reset]
  have emptyStack : ∀ k : Fin 16, State.reset.stack[k] = 0 := by simp [State.reset]
  intro s t h
  obtain ⟨k, d, rfl⟩ : ∃ k d, t = { State.reset with key := k, draws := d } := by
    rcases h with rfl | rfl <;> exact ⟨_, _, rfl⟩
  refine ⟨zeroReg, rfl, rfl, rfl, emptyStack, rfl, rfl, fun _ => unlisted_of_lt, fun _ => unlisted_of_ge,
    litAt_clearFrame, rfl, rfl, fun h => ?_⟩
  rw [h]
  rfl

end Sys2Proof.Machine
end

section
/-! PROOFS. What cannot be observed: the sound timer (spec/10_state.md R30) and the stack entries at or above SP (R28,
D19). Replacing ST and STACK commutes with every instruction but call, return and set-sound-timer, which are looked at
one by one; both statements are then about twin states, which may differ in these two fields. -/

namespace Sys2Proof.Machine

/-- The outcome of a step or an instruction, the next state (if there is one) changed by `f`. -/
def mapNext (f : State → State) : Host.Outcome State Fault Refusal → Host.Outcome State Fault Refusal
  | .next t => .next (f t)
  | .fault r => .fault r
  | .refused r => .refused r

/-- The two outcomes are next states related by `R`, or the same fault, or the same refusal. -/
inductive SameOutcome (R : State → State → Prop) :
    Host.Outcome State Fault Refusal → Host.Outcome State Fault Refusal → Prop where
  | next {t t' : State} (h : R t t') : SameOutcome R (.next t) (.next t')
  | fault (r : Fault) : SameOutcome R (.fault r) (.fault r)
  | refused (r : Refusal) : SameOutcome R (.refused r) (.refused r)

/-- What the two statements say of a step: completion with a related state, and the same fault. -/
theorem SameOutcome.next_and_fault {R : State → State → Prop} {o o' : Host.Outcome State Fault Refusal}
    (h : SameOutcome R o o') :
    (∀ t, o = .next t → ∃ t', o' = .next t' ∧ R t t') ∧ (∀ r, o = .fault r → o' = .fault r) := by
  cases h with
  | next h => exact ⟨by rintro _ ⟨⟩; exact ⟨_, rfl, h⟩, by rintro _ ⟨⟩⟩
  | fault r => exact ⟨by rintro _ ⟨⟩, by rintro _ ⟨⟩; rfl⟩
  | refused r => exact ⟨by rintro _ ⟨⟩, by rintro _ ⟨⟩⟩

/-- An outcome is the same as its image, if `R` relates its next state to the image's. -/
theorem sameOutcome_mapNext {R : State → State → Prop} {f : State → State} {o : Host.Outcome State Fault Refusal}
    (h : ∀ t, o = .next t → R t (f t)) : SameOutcome R o (mapNext f o) := by
  cases o with
  | next t => exact .next (h t rfl)
  | fault r => exact .fault r
  | refused r => exact .refused r

/-! ## Replacing ST and STACK -/

/-- The state with another ST and another STACK. -/
def State.hide (s : State) (b : Byte) (k : Vector Word 16) : State := { s with st := b, stack := k }

theorem hide_skipIf (s : State) (b : Byte) (k : Vector Word 16) (c : Bool) :
    (s.hide b k).skipIf c = (s.skipIf c).hide b k := by cases c <;> rfl

/-- A checked value that does not depend on ST and STACK leads to the same fault or the same way on. -/
theorem orFatal_hide {α : Type} (i : Instr) (s : State) (b : Byte) (k : Vector Word 16) (r : Except BoundsCause α)
    {g g' : α → Host.Outcome State Fault Refusal} (h : ∀ a, g' a = mapNext (State.hide · b k) (g a)) :
    orFatal i (s.hide b k) r g' = mapNext (State.hide · b k) (orFatal i s r g) := by
  cases r with
  | ok a => exact h a
  | error c => rfl

/-- A block store does not depend on ST and STACK, and keeps them. -/
theorem orFatal_storeBytes_hide (i : Instr) (s : State) (b : Byte) (k : Vector Word 16) (base : Nat) (bs : List Byte)
    {g : State → Host.Outcome State Fault Refusal} (h : ∀ u, g (u.hide b k) = mapNext (State.hide · b k) (g u)) :
    orFatal i (s.hide b k) (storeBytes (s.hide b k) base bs) g =
      mapNext (State.hide · b k) (orFatal i s (storeBytes s base bs) g) := by
  unfold storeBytes
  split
  · rfl
  · exact h (s.setMem (Memory.writeBytes s.mem base bs))

/-- Every instruction but call, return and set-sound-timer commutes with replacing ST and STACK. -/
theorem exec_hide {i : Instr} (hi : i.mnemonic ∉ ["CALL", "RET", "LD_ST_VX"]) (s : State) (b : Byte)
    (k : Vector Word 16) : exec i (s.hide b k) = mapNext (State.hide · b k) (exec i s) := by
  cases i
  case call | ret | ldStVx => simp [Instr.mnemonic] at hi
  case seImm | sneImm | seReg | sneReg => exact congrArg Host.Outcome.next (hide_skipIf s b k _)
  case skp x => exact orFatal_hide (.skp x) s b k _ fun _ => congrArg Host.Outcome.next (hide_skipIf s b k _)
  case sknp x => exact orFatal_hide (.sknp x) s b k _ fun _ => congrArg Host.Outcome.next (hide_skipIf s b k _)
  case ldVxK x =>
    have hkey : (s.hide b k).lowestKey = s.lowestKey := rfl
    change execLdVxK x (s.hide b k) = mapNext _ (execLdVxK x s)
    unfold execLdVxK
    rw [hkey]
    cases s.lowestKey <;> rfl
  case drw x y n => exact orFatal_hide (.drw x y n) s b k _ fun _ => rfl
  case ldVxMem x => exact orFatal_hide (.ldVxMem x) s b k _ fun _ => rfl
  case ldBVx x => exact orFatal_storeBytes_hide (.ldBVx x) s b k _ _ fun _ => rfl
  case ldMemVx x => exact orFatal_storeBytes_hide (.ldMemVx x) s b k _ _ fun _ => rfl
  -- the other instructions answer a next state outright, whatever ST and STACK are
  all_goals rfl

/-! ## Twins -/

/-- `s'` is `s` but for ST (the same if `p`) and for STACK (the same if `q`, and the same below SP in any case). -/
structure Twins (p q : Prop) (s s' : State) : Prop where
  rest : s' = s.hide s'.st s'.stack
  sound : p → s'.st = s.st
  stack : q → s'.stack = s.stack
  inUse : ∀ k : Fin 16, k.val < s.sp.val → s'.stack[k] = s.stack[k]

section

variable {p q : Prop} {s s' : State} {b : Byte} {k : Vector Word 16}

/-- Twins that return both underflow, or both pop the same entry, which is in use. -/
theorem exec_ret_twins (h : Twins p q s (s.hide b k)) :
    SameOutcome (Twins p q) (exec .ret s) (exec .ret (s.hide b k)) := by
  obtain ⟨-, hsound, hstack, hinUse⟩ := h
  rcases Nat.eq_zero_or_pos s.sp.val with h0 | hpos
  · rw [exec_ret_of_empty h0, exec_ret_of_empty (s := s.hide b k) h0]
    exact .fault _
  · rw [exec_ret_of_pos hpos, exec_ret_of_pos (s := s.hide b k) hpos]
    have htop : k[s.sp.val - 1]'(by omega) = s.stack[s.sp.val - 1]'(by omega) :=
      hinUse ⟨s.sp.val - 1, by omega⟩ (Nat.sub_lt hpos Nat.one_pos)
    exact .next ⟨by simp only [State.hide, htop], hsound, hstack, fun j hj => hinUse j (Nat.lt_of_lt_pred hj)⟩

/-- Twins that call both overflow, or both push the same PC, so they agree one entry further. -/
theorem exec_call_twins (h : Twins p q s (s.hide b k)) (nnn : Addr12) :
    SameOutcome (Twins p q) (exec (.call nnn) s) (exec (.call nnn) (s.hide b k)) := by
  obtain ⟨-, hsound, hstack, hinUse⟩ := h
  rcases Nat.lt_or_ge s.sp.val 16 with room | hfull
  · rw [exec_call_of_room nnn room, exec_call_of_room (s := s.hide b k) nnn room]
    refine .next ⟨rfl, hsound, fun hq => ?_, fun j hj => ?_⟩
    · exact congrArg (fun v : Vector Word 16 => v.set s.sp.val s.pc room) (hstack hq)
    · show (k.set s.sp.val s.pc room)[j.val] = (s.stack.set s.sp.val s.pc room)[j.val]
      have hj : j.val < s.sp.val + 1 := hj
      by_cases heq : s.sp.val = j.val
      · simp [heq]
      · rw [Vector.getElem_set_ne _ _ heq, Vector.getElem_set_ne _ _ heq]
        exact hinUse j (by omega)
  · have hfull : s.sp.val = 16 := by omega
    rw [exec_call_of_full nnn hfull, exec_call_of_full (s := s.hide b k) nnn hfull]
    exact .fault _

/-- Twins stay twins over an instruction that touches neither the stack nor ST. -/
theorem exec_twins_of_frame (h : Twins p q s (s.hide b k)) {i : Instr}
    (hi : i.mnemonic ∉ ["CALL", "RET", "LD_ST_VX"]) :
    SameOutcome (Twins p q) (exec i s) (exec i (s.hide b k)) := by
  obtain ⟨-, hsound, hstack, hinUse⟩ := h
  rw [exec_hide hi]
  refine sameOutcome_mapNext fun t ht => ?_
  have frame := exec_frame ht
  obtain ⟨hcall, hret, hset⟩ : i.mnemonic ≠ "CALL" ∧ i.mnemonic ≠ "RET" ∧ i.mnemonic ≠ "LD_ST_VX" := by simpa using hi
  have hst := frame.sound.resolve_left hset
  obtain ⟨hsp, hstk⟩ := frame.stack.resolve_left (by simp [hcall, hret])
  exact ⟨rfl, fun hp => (hsound hp).trans hst.symm, fun hq => (hstack hq).trans hstk.symm,
    by rw [hsp, hstk]; exact hinUse⟩

/-- Twins take the same instruction to twins, or to the same fault. -/
theorem exec_twins (h : Twins p q s s') (i : Instr) :
    SameOutcome (Twins p q) (exec i s) (exec i s') := by
  obtain ⟨b, k, rfl⟩ : ∃ b k, s' = s.hide b k := ⟨_, _, h.rest⟩
  cases i
  case ret => exact exec_ret_twins h
  case call nnn => exact exec_call_twins h nnn
  case ldStVx x =>
    -- both write the same value into ST, whatever it was
    exact .next ⟨rfl, fun _ => rfl, h.stack, h.inUse⟩
  all_goals exact exec_twins_of_frame h (by simp [Instr.mnemonic])

/-- Twins take the same step: both are halted, fetch the same word, and execute the same instruction (R120). -/
theorem step_twins (h : Twins p q s s') :
    SameOutcome (Twins p q) (step s) (step s') := by
  have hadvance : Twins p q s.advance s'.advance := ⟨by rw [h.rest]; rfl, h.sound, h.stack, h.inUse⟩
  have hhalt : s'.halt = s.halt := by rw [h.rest]; rfl
  have hfetch : fetch s' = fetch s := by rw [h.rest]; rfl
  have hpc : s'.pc = s.pc := by rw [h.rest]; rfl
  unfold step
  rw [hhalt, hfetch, hpc]
  split
  · exact .next h
  · split
    · exact .fault _
    · split
      · exact exec_twins hadvance _
      · exact .fault _
      · exact .fault _

end

/-- Settles O58: states that differ only in entries at or above SP are twins with the same ST. -/
theorem poppedEntriesAreNeverObserved : Obligations.PoppedEntriesAreNeverObserved := by
  rintro s s' ⟨hrest, hinUse⟩
  have hst : s'.st = s.st := by rw [hrest]
  have twins : Twins True False s s' := ⟨by rw [State.hide, hst]; exact hrest, fun _ => hst, False.elim, hinUse⟩
  obtain ⟨hnext, hfault⟩ := (step_twins twins).next_and_fault
  refine ⟨fun t ht => ?_, hfault⟩
  obtain ⟨t', ht', same⟩ := hnext t ht
  refine ⟨t', ht', ?_, same.inUse⟩
  have := same.rest
  rwa [State.hide, same.sound trivial] at this

/-- Settles O57: states that differ only in ST are twins with the same STACK. -/
theorem soundTimerIsNeverRead : Obligations.SoundTimerIsNeverRead := by
  intro s b
  have twins : Twins False True s (s.setSt b) := ⟨rfl, False.elim, fun _ => rfl, fun _ _ => rfl⟩
  obtain ⟨hnext, hfault⟩ := (step_twins twins).next_and_fault
  refine ⟨fun t ht => ?_, hfault⟩
  obtain ⟨t', ht', same⟩ := hnext t ht
  refine ⟨t', ht', ?_⟩
  rw [same.rest, same.stack trivial]
  rfl

end Sys2Proof.Machine
end

section
/-! PROOFS. Memory (spec/20_memory.md): what a block store writes and keeps (R65, R196), and what a fetch reads (R66,
R72). -/

namespace Sys2Proof.Machine

/-! ## Block stores -/

/-- Byte `k` of a stored block reads back at `base + k` (R69). -/
theorem Memory.read_writeBytes_inside (m : Memory) (base : Nat) {bs : List Byte} {k : Nat} (h : k < bs.length) :
    Memory.read (Memory.writeBytes m base bs) (base + k) = bs[k] := by
  rw [Memory.read_writeBytes, dif_pos (by omega)]
  simp only [Nat.add_sub_cancel_left]

/-- A stored block leaves the bytes before and behind it (R65). -/
theorem Memory.read_writeBytes_outside (m : Memory) {base : Nat} {bs : List Byte} {a : Nat}
    (h : a < base ∨ base + bs.length ≤ a) : Memory.read (Memory.writeBytes m base bs) a = Memory.read m a := by
  rw [Memory.read_writeBytes, dif_neg (by omega)]

/-- Replacing MEM is within the frame that exempts memory. -/
theorem sameBut_setMem (s : State) (m : Memory) : SameBut [.memory] s (s.setMem m) where
  regs _ := State.reg_setMem s m
  index _ := rfl
  pc _ := rfl
  stack _ := ⟨rfl, rfl⟩
  delay _ := rfl
  sound _ := rfl
  memory h := absurd List.mem_cons_self h
  screen _ _ _ := rfl
  keypad _ := rfl
  status _ := ⟨rfl, rfl⟩
  draws _ := rfl

/-- Settles O21: where a store succeeds, it replaces MEM by the block write and nothing else. -/
theorem storeWritesItsBytesAndNoOther : Obligations.StoreWritesItsBytesAndNoOther := by
  intro s base bs
  constructor
  · intro hfits
    exact ⟨_, storeBytes_eq_ok.2 ⟨hfits, rfl⟩, fun _ => Memory.read_writeBytes_inside s.mem base,
      fun _ => Memory.read_writeBytes_outside s.mem, sameBut_setMem s _⟩
  · intro hne hout
    exact storeBytes_eq_error.2 ⟨⟨List.length_pos_of_ne_nil hne, hout⟩, rfl⟩

/-! ## Fetch -/

/-- `byteAfterStore` is what a read gives after the block write. -/
theorem Memory.read_writeBytes_eq_byteAfterStore (m : Memory) (base : Nat) (bs : List Byte) (a : Nat) :
    Memory.read (Memory.writeBytes m base bs) a = byteAfterStore m base bs a := by
  rw [Memory.read_writeBytes, byteAfterStore]
  by_cases hbase : base ≤ a
  · by_cases hlen : a - base < bs.length <;> simp [hbase, hlen]
  · simp [hbase]

/-- Settles O23: the fetch reads its two bytes from the memory that the block write left. -/
theorem fetchSeesTheLastStore : Obligations.FetchSeesTheLastStore := by
  intro s t u base bs hstore hmem hpc
  obtain ⟨-, rfl⟩ := storeBytes_eq_ok.1 hstore
  have hread (a : Nat) : Memory.read u.mem a = byteAfterStore s.mem base bs a := by
    rw [hmem, State.setMem_mem, Memory.read_writeBytes_eq_byteAfterStore]
  rw [fetch_eq_ok.2 ⟨hpc, rfl⟩, hread, hread]

/-- A running machine that cannot fetch raises the bounds violation, with no word in the record (R121, R255). -/
theorem step_of_fetch_error {s : State} {c : BoundsCause} (hh : s.halt = false) (hf : fetch s = .error c) :
    step s = .fault (.boundsViolation c none s.pc) := by
  simp [step, hh, hf, raiseFatal]

/-- Settles O7, by whether PC + 1 is inside memory. -/
theorem fetchIsBigEndianAndBounded : Obligations.FetchIsBigEndianAndBounded := by
  intro s
  constructor
  · intro hin
    exact ⟨_, fetch_eq_ok.2 ⟨hin, rfl⟩, wordOfBytes_toNat _ _⟩
  · intro hout
    have hf : fetch s = .error .fetch := fetch_eq_error.2 ⟨hout, rfl⟩
    exact ⟨hf, fun hh => ⟨_, step_of_fetch_error hh hf, rfl, rfl⟩⟩

end Sys2Proof.Machine
end

section
/-! PROOFS. Decoding and encoding (spec/30_encoding.md): the fields of a word and the packed formats, the two round
trips, and the opcode map as the decoder's specification. -/

namespace Sys2Proof

/-! ## The fields under the source's masks (R91) -/

/-- A mask whose bits are `len` ones from bit `k` on selects the digit of weight `2 ^ k`. -/
theorem and_ushiftRight_toNat {w m : Word} {k len : Nat} (hm : m.toNat >>> k = 2 ^ len - 1) :
    ((w &&& m) >>> k).toNat = w.toNat / 2 ^ k % 2 ^ len := by
  rw [BitVec.toNat_ushiftRight, BitVec.toNat_and, Nat.shiftRight_and_distrib, hm, Nat.and_two_pow_sub_one_eq_mod,
    Nat.shiftRight_eq_div_pow]

/-- A mask of the `len` low bits selects the remainder. -/
theorem and_toNat_of_low_mask {w m : Word} {len : Nat} (hm : m.toNat = 2 ^ len - 1) :
    (w &&& m).toNat = w.toNat % 2 ^ len := by
  rw [BitVec.toNat_and, hm, Nat.and_two_pow_sub_one_eq_mod]

theorem fieldOp_toNat_eq_kind_div (w : Word) : (fieldOp w).toNat = (fieldKind w).toNat / 4096 := by
  have := (fieldKind w).isLt
  rw [fieldOp, BitVec.extractLsb'_toNat, Nat.shiftRight_eq_div_pow]
  omega

/-- Settles O2: both sides of each equation are the same digits of the word. -/
theorem fieldsAreTheMaskedBits : Obligations.FieldsAreTheMaskedBits := by
  intro w
  refine ⟨rfl, fieldOp_toNat_eq_kind_div w, ?_, ?_, ?_, ?_, ?_⟩
  · exact (fieldX_val w).trans (and_ushiftRight_toNat (k := 8) (len := 4) rfl).symm
  · exact (fieldY_val w).trans (and_ushiftRight_toNat (k := 4) (len := 4) rfl).symm
  · exact (fieldN_toNat w).trans (and_toNat_of_low_mask (len := 4) rfl).symm
  · exact (fieldNN_toNat w).trans (and_toNat_of_low_mask (len := 8) rfl).symm
  · exact (fieldNNN_toNat w).trans (and_toNat_of_low_mask (len := 12) rfl).symm

/-! ## The fields of a packed word (R92) -/

section

variable (op : BitVec 4) (x y : Reg) (n : BitVec 4) (nn : Byte) (nnn : Addr12)

@[simp] theorem fieldOp_packNNN : fieldOp (packNNN op nnn) = op := by
  apply BitVec.eq_of_toNat_eq
  rw [fieldOp_toNat, packNNN_toNat]
  omega

@[simp] theorem fieldNNN_packNNN : fieldNNN (packNNN op nnn) = nnn := by
  apply BitVec.eq_of_toNat_eq
  rw [fieldNNN_toNat, packNNN_toNat]
  omega

@[simp] theorem fieldOp_packXNN : fieldOp (packXNN op x nn) = op := by
  apply BitVec.eq_of_toNat_eq
  rw [fieldOp_toNat, packXNN_toNat]
  omega

@[simp] theorem fieldX_packXNN : fieldX (packXNN op x nn) = x := by
  apply Fin.ext
  rw [fieldX_val, packXNN_toNat]
  omega

@[simp] theorem fieldNN_packXNN : fieldNN (packXNN op x nn) = nn := by
  apply BitVec.eq_of_toNat_eq
  rw [fieldNN_toNat, packXNN_toNat]
  omega

@[simp] theorem fieldOp_packXYN : fieldOp (packXYN op x y n) = op := by
  apply BitVec.eq_of_toNat_eq
  rw [fieldOp_toNat, packXYN_toNat]
  omega

@[simp] theorem fieldX_packXYN : fieldX (packXYN op x y n) = x := by
  apply Fin.ext
  rw [fieldX_val, packXYN_toNat]
  omega

@[simp] theorem fieldY_packXYN : fieldY (packXYN op x y n) = y := by
  apply Fin.ext
  rw [fieldY_val, packXYN_toNat]
  omega

@[simp] theorem fieldN_packXYN : fieldN (packXYN op x y n) = n := by
  apply BitVec.eq_of_toNat_eq
  rw [fieldN_toNat, packXYN_toNat]
  omega

end

/-! ## Decoding an encoding -/

/-- Settles O3, format by format: the fields of a packed word are what was packed, so `op` selects the instruction's
family and the sub-opcode selects it there. -/
theorem decodeOfEncodeIsTheInstruction : Obligations.DecodeOfEncodeIsTheInstruction := by
  intro i wf
  cases i
  case cls | ret => rfl
  case jp | call | ldI | jpV0 => simp [encode, decode]
  case seImm | sneImm | ldImm | addImm | rnd => simp [encode, decode]
  case seReg => simp [encode, decode, decodeFamily5]
  case ldReg | orReg | andReg | xorReg | addReg | sub | shr | subn | shl => simp [encode, decode, decodeFamily8]
  case sneReg => simp [encode, decode, decodeFamily9]
  case skp | sknp => simp [encode, decode, decodeFamilyE]
  case drw x y n =>
    have hn : n < 16 := of_decide_eq_true wf
    simp [encode, decode, Nat.mod_eq_of_lt hn]
  -- the instructions of family F are left
  all_goals simp [encode, decode, decodeFamilyF]

/-! ## Packing the fields of a word -/

section

variable {w : Word} {op : BitVec 4} (hop : fieldOp w = op)
include hop

theorem packNNN_fields : packNNN op (fieldNNN w) = w := by
  subst hop
  apply BitVec.eq_of_toNat_eq
  rw [packNNN_toNat, fieldOp_toNat, fieldNNN_toNat]
  omega

theorem packXNN_fields {nn : Byte} (hnn : fieldNN w = nn) : packXNN op (fieldX w) nn = w := by
  subst hop hnn
  apply BitVec.eq_of_toNat_eq
  rw [packXNN_toNat, fieldOp_toNat, fieldX_val, fieldNN_toNat]
  omega

theorem packXYN_fields {n : BitVec 4} (hn : fieldN w = n) : packXYN op (fieldX w) (fieldY w) n = w := by
  subst hop hn
  apply BitVec.eq_of_toNat_eq
  rw [packXYN_toNat, fieldOp_toNat, fieldX_val, fieldY_val, fieldN_toNat]
  omega

end

/-! ## Encoding what was decoded -/

/-- What the decoder may answer on `w`: an instruction that `w` encodes, or that `w` is unknown. -/
inductive FaithfulTo (w : Word) : Decoded → Prop where
  | instr {i : Instr} (wf : i.WellFormed) (henc : encode i = w) : FaithfulTo w (.instr i)
  | unknown : FaithfulTo w (.unknownInstruction w)

section

variable {w : Word}

theorem decodeFamily0_faithful : FaithfulTo w (decodeFamily0 w) := by
  unfold decodeFamily0
  split_ifs with hcls hret
  · exact .instr rfl hcls.symm
  · exact .instr rfl hret.symm
  · exact .unknown

theorem decodeFamily5_faithful (hop : fieldOp w = 0x5#4) : FaithfulTo w (decodeFamily5 w) := by
  unfold decodeFamily5
  split_ifs with hn
  · exact .instr rfl (packXYN_fields hop hn)
  · exact .unknown

theorem decodeFamily8_faithful (hop : fieldOp w = 0x8#4) : FaithfulTo w (decodeFamily8 w) := by
  simp only [decodeFamily8]
  split_ifs
  case neg => exact .unknown
  all_goals exact .instr rfl (packXYN_fields hop ‹fieldN w = _›)

theorem decodeFamily9_faithful (hop : fieldOp w = 0x9#4) : FaithfulTo w (decodeFamily9 w) := by
  unfold decodeFamily9
  split_ifs with hn
  · exact .instr rfl (packXYN_fields hop hn)
  · exact .unknown

theorem decodeFamilyE_faithful (hop : fieldOp w = 0xE#4) : FaithfulTo w (decodeFamilyE w) := by
  simp only [decodeFamilyE]
  split_ifs
  case neg => exact .unknown
  all_goals exact .instr rfl (packXNN_fields hop ‹fieldNN w = _›)

theorem decodeFamilyF_faithful (hop : fieldOp w = 0xF#4) : FaithfulTo w (decodeFamilyF w) := by
  simp only [decodeFamilyF]
  split_ifs
  case neg => exact .unknown
  all_goals exact .instr rfl (packXNN_fields hop ‹fieldNN w = _›)

end

/-- Whatever the decoder answers, it is faithful to the word: the branch taken fixes `op`, and the family the rest. -/
theorem decode_faithful (w : Word) : FaithfulTo w (decode w) := by
  unfold decode
  split
  next => exact decodeFamily0_faithful
  next h => exact .instr rfl (packNNN_fields (BitVec.eq_of_toNat_eq h))
  next h => exact .instr rfl (packNNN_fields (BitVec.eq_of_toNat_eq h))
  next h => exact .instr rfl (packXNN_fields (BitVec.eq_of_toNat_eq h) rfl)
  next h => exact .instr rfl (packXNN_fields (BitVec.eq_of_toNat_eq h) rfl)
  next h => exact decodeFamily5_faithful (BitVec.eq_of_toNat_eq h)
  next h => exact .instr rfl (packXNN_fields (BitVec.eq_of_toNat_eq h) rfl)
  next h => exact .instr rfl (packXNN_fields (BitVec.eq_of_toNat_eq h) rfl)
  next h => exact decodeFamily8_faithful (BitVec.eq_of_toNat_eq h)
  next h => exact decodeFamily9_faithful (BitVec.eq_of_toNat_eq h)
  next h => exact .instr rfl (packNNN_fields (BitVec.eq_of_toNat_eq h))
  next h => exact .instr rfl (packNNN_fields (BitVec.eq_of_toNat_eq h))
  next h => exact .instr rfl (packXNN_fields (BitVec.eq_of_toNat_eq h) rfl)
  next h =>
    have hn : fieldN w = BitVec.ofNat 4 (fieldN w).toNat := by simp
    exact .instr (decide_eq_true (fieldN w).isLt) (packXYN_fields (BitVec.eq_of_toNat_eq h) hn)
  next h => exact decodeFamilyE_faithful (BitVec.eq_of_toNat_eq h)
  next =>
    have hlt := (fieldOp w).isLt
    have h : (fieldOp w).toNat = 15 := by
      simp only [imp_false] at *
      omega
    exact decodeFamilyF_faithful (BitVec.eq_of_toNat_eq h)

/-- Settles O4: the decoder is faithful to the word. -/
theorem encodeOfDecodeIsTheWord : Obligations.EncodeOfDecodeIsTheWord := by
  intro w i h
  have faithful := decode_faithful w
  rw [h] at faithful
  cases faithful with
  | instr wf henc => exact ⟨wf, henc⟩

/-- A word decodes to an instruction or is unknown (R94, R96). -/
theorem decode_instr_or_unknown (w : Word) : (∃ i, decode w = .instr i) ∨ decode w = .unknownInstruction w := by
  cases hd : decode w with
  | instr i => exact .inl ⟨i, rfl⟩
  | unknownInstruction v =>
    have faithful := decode_faithful w
    rw [hd] at faithful
    cases faithful
    exact .inr rfl
  | truncated => exact absurd hd (decode_ne_truncated w)

/-! ## The rows of the opcode map (R94, R95) -/

theorem matchesWord_iff {r : OpcodeRow} {w : Word} : r.matchesWord w = true ↔ w &&& r.mask = r.value :=
  beq_iff_eq

open Laws.MatchesItsRow in
/-- The encoding of a well-formed instruction has the fixed bits of the row with its mnemonic. -/
theorem encode_matches_its_row : (i : Instr) → Statement i
  | .cls => cls
  | .ret => ret
  | .jp nnn => jp nnn
  | .call nnn => call nnn
  | .seImm x nn => seImm x nn
  | .sneImm x nn => sneImm x nn
  | .seReg x y => seReg x y
  | .ldImm x nn => ldImm x nn
  | .addImm x nn => addImm x nn
  | .ldReg x y => ldReg x y
  | .orReg x y => orReg x y
  | .andReg x y => andReg x y
  | .xorReg x y => xorReg x y
  | .addReg x y => addReg x y
  | .sub x y => sub x y
  | .shr x y => shr x y
  | .subn x y => subn x y
  | .shl x y => shl x y
  | .sneReg x y => sneReg x y
  | .ldI nnn => ldI nnn
  | .jpV0 nnn => jpV0 nnn
  | .rnd x nn => rnd x nn
  | .drw x y n => drw x y n
  | .skp x => skp x
  | .sknp x => sknp x
  | .ldVxDt x => ldVxDt x
  | .ldVxK x => ldVxK x
  | .ldDtVx x => ldDtVx x
  | .ldStVx x => ldStVx x
  | .addIVx x => addIVx x
  | .ldFVx x => ldFVx x
  | .ldBVx x => ldBVx x
  | .ldMemVx x => ldMemVx x
  | .ldVxMem x => ldVxMem x

/-- A word that decodes has the fixed bits of a row with its instruction's mnemonic. -/
theorem exists_row_of_decode {w : Word} {i : Instr} (h : decode w = .instr i) :
    ∃ r ∈ opcodeTable, r.mnemonic = i.mnemonic ∧ r.matchesWord w = true := by
  obtain ⟨wf, rfl⟩ := encodeOfDecodeIsTheWord w i h
  obtain ⟨r, hr, hmn, hbits⟩ := encode_matches_its_row i wf
  exact ⟨r, hr, hmn, matchesWord_iff.2 hbits⟩

/-- Two rows that agree on the bits both fix are the same row. -/
theorem opcodeTable_eq_of_agree :
    ∀ r ∈ opcodeTable, ∀ q ∈ opcodeTable, q.value &&& r.mask = r.value &&& q.mask → q = r := by
  decide

/-- A row that matches a word is the only one that does. -/
theorem filter_matchesWord_eq {w : Word} {r : OpcodeRow} (hr : r ∈ opcodeTable) (h : r.matchesWord w = true) :
    opcodeTable.filter (fun q => q.matchesWord w) = [r] := by
  have hother : ∀ q ∈ opcodeTable, q.matchesWord w = (q == r) := by
    intro q hq
    rw [Bool.eq_iff_iff, beq_iff_eq]
    refine ⟨fun hqw => opcodeTable_eq_of_agree r hr q hq ?_, fun e => e ▸ h⟩
    rw [← matchesWord_iff.1 hqw, ← matchesWord_iff.1 h]
    ac_rfl
  have hnodup : opcodeTable.Nodup := by decide
  rw [List.filter_congr hother, List.filter_beq, List.count_eq_one_of_mem hnodup hr, List.replicate_one]

/-! ### A row's fixed bits, field by field -/

/-- `op` is bits 15:12: `kind` drops no bit of them. -/
theorem fieldOp_eq_extractLsb' (w : Word) : fieldOp w = w.extractLsb' 12 4 := by
  rw [fieldOp, fieldKind, BitVec.extractLsb'_and]
  exact BitVec.and_allOnes

@[simp] theorem fieldOp_ofNat (k : Nat) : fieldOp (BitVec.ofNat 16 k) = BitVec.ofNat 4 (k / 4096) := by
  apply BitVec.eq_of_toNat_eq
  rw [fieldOp_toNat, BitVec.toNat_ofNat, BitVec.toNat_ofNat]
  omega

@[simp] theorem fieldN_ofNat (k : Nat) : fieldN (BitVec.ofNat 16 k) = BitVec.ofNat 4 k := by
  apply BitVec.eq_of_toNat_eq
  rw [fieldN_toNat, BitVec.toNat_ofNat, BitVec.toNat_ofNat]
  omega

@[simp] theorem fieldNN_ofNat (k : Nat) : fieldNN (BitVec.ofNat 16 k) = BitVec.ofNat 8 k := by
  apply BitVec.eq_of_toNat_eq
  rw [fieldNN_toNat, BitVec.toNat_ofNat, BitVec.toNat_ofNat]
  omega

section

variable {r : OpcodeRow} {w : Word} (h : r.matchesWord w = true)
include h

/-- A row that fixes all bits is matched by its own value only. -/
theorem eq_value_of_matchesWord (hm : r.mask = BitVec.allOnes 16) : w = r.value := by
  rw [← matchesWord_iff.1 h, hm, BitVec.and_allOnes]

/-- A row that fixes the family is matched by words of the family only. -/
theorem fieldOp_of_matchesWord (hm : fieldOp r.mask = BitVec.allOnes 4) : fieldOp w = fieldOp r.value := by
  have hand : fieldOp (w &&& r.mask) = fieldOp w &&& fieldOp r.mask := by
    simp only [fieldOp_eq_extractLsb', BitVec.extractLsb'_and]
  rw [← matchesWord_iff.1 h, hand, hm, BitVec.and_allOnes]

/-- A row that fixes the sub-opcode `n`. -/
theorem fieldN_of_matchesWord (hm : fieldN r.mask = BitVec.allOnes 4) : fieldN w = fieldN r.value := by
  have hand : fieldN (w &&& r.mask) = fieldN w &&& fieldN r.mask := BitVec.extractLsb'_and
  rw [← matchesWord_iff.1 h, hand, hm, BitVec.and_allOnes]

/-- A row that fixes the sub-opcode `nn`. -/
theorem fieldNN_of_matchesWord (hm : fieldNN r.mask = BitVec.allOnes 8) : fieldNN w = fieldNN r.value := by
  have hand : fieldNN (w &&& r.mask) = fieldNN w &&& fieldNN r.mask := BitVec.extractLsb'_and
  rw [← matchesWord_iff.1 h, hand, hm, BitVec.and_allOnes]

end

/-- A word with the fixed bits of a row decodes to an instruction: the row fixes the family and the sub-opcode. -/
theorem exists_decode_of_row {w : Word} {r : OpcodeRow} (hr : r ∈ opcodeTable) (h : r.matchesWord w = true) :
    ∃ i, decode w = .instr i := by
  have hw := eq_value_of_matchesWord h
  have hop := fieldOp_of_matchesWord h
  have hn := fieldN_of_matchesWord h
  have hnn := fieldNN_of_matchesWord h
  clear h
  fin_cases hr
  -- the fixed fields are numbers now, and they lead to an instruction in the decoder's family of the row
  all_goals
    simp_all [decode, decodeFamily0, decodeFamily5, decodeFamily8, decodeFamily9, decodeFamilyE, decodeFamilyF]

/-- Settles O5: an instruction's word has its row, no row beside it, and no row matches an unknown word. -/
theorem decodeSelectsTheOneMatchingRow : Obligations.DecodeSelectsTheOneMatchingRow := by
  intro w
  refine ⟨fun i h => ?_, ⟨fun h r hr => ?_, fun h => ?_⟩, decode_instr_or_unknown w⟩
  · obtain ⟨r, hr, hmn, hrow⟩ := exists_row_of_decode h
    rw [filter_matchesWord_eq hr hrow, List.map_singleton, hmn]
  · by_contra hrow
    obtain ⟨i, hi⟩ := exists_decode_of_row hr (Bool.not_eq_false _ ▸ hrow)
    simp [h] at hi
  · obtain ⟨i, hi⟩ | hu := decode_instr_or_unknown w
    · obtain ⟨r, hr, -, hrow⟩ := exists_row_of_decode hi
      simp [h r hr] at hrow
    · exact hu

/-- Settles O1, by running the decoder on the twenty words. -/
theorem sampleWordsDecode : Obligations.SampleWordsDecode := by
  unfold Obligations.SampleWordsDecode
  decide

end Sys2Proof
end

section
/-! PROOFS. The step cycle (spec/40_step_cycle.md): a running machine executes what it decoded, a halted one does
nothing. -/

namespace Sys2Proof.Machine

/-- Settles O6: the advanced state is the one with PC + 2, and a successful fetch bounds PC. -/
theorem stepRunsTheDecodedInstruction : Obligations.StepRunsTheDecodedInstruction := by
  intro s w i hh hf hd
  exact ⟨step_eq_exec hh hf hd, advance_pc_toNat hf⟩

/-- Settles O9, by the halt check that comes before the fetch. -/
theorem haltedStepChangesNothing : Obligations.HaltedStepChangesNothing := by
  intro s hh
  exact if_pos hh

end Sys2Proof.Machine
end

section
/-! PROOFS. Control transfer (spec/41_control_transfer.md R140 to R149): what return, call, the jumps and the compare
skips do to PC and the stack, and that they touch nothing else. -/

namespace Sys2Proof.Machine

/-! ## The frames of a control transfer -/

/-- A move of PC is within the frame that exempts PC. -/
theorem sameBut_setPc (s : State) (w : Word) : SameBut [.pc] s (s.setPc w) where
  regs _ := State.reg_setPc s w
  index _ := rfl
  pc h := absurd List.mem_cons_self h
  stack _ := ⟨rfl, rfl⟩
  delay _ := rfl
  sound _ := rfl
  memory _ _ := rfl
  screen _ _ _ := rfl
  keypad _ := rfl
  status _ := ⟨rfl, rfl⟩
  draws _ := rfl

/-- A move of PC with new values of SP and STACK is within the frame that exempts PC and the stack. -/
theorem sameBut_pc_stack (s : State) (w : Word) (sp : Fin 17) (stack : Vector Word 16) :
    SameBut [.pc, .stack] s { s with pc := w, sp := sp, stack := stack } where
  regs _ _ := rfl
  index _ := rfl
  pc h := absurd List.mem_cons_self h
  stack h := absurd (List.mem_cons_of_mem _ List.mem_cons_self) h
  delay _ := rfl
  sound _ := rfl
  memory _ _ := rfl
  screen _ _ _ := rfl
  keypad _ := rfl
  status _ := ⟨rfl, rfl⟩
  draws _ := rfl

/-- A skip is a move of PC, by 2 or by nothing (R148). -/
theorem State.skipIf_eq_setPc (s : State) (c : Bool) : s.skipIf c = s.setPc (if c then s.pc + 2 else s.pc) := by
  cases c <;> rfl

theorem sameBut_skipIf (s : State) (c : Bool) : SameBut [.pc] s (s.skipIf c) := by
  rw [State.skipIf_eq_setPc]
  exact sameBut_setPc s _

/-- A PC above 4094 leaves no room for a word, so the fetch is a bounds violation (R121). -/
theorem fetch_of_pc_gt {s : State} (h : 4094 < s.pc.toNat) : fetch s = .error .fetch :=
  fetch_eq_error.2 ⟨by omega, rfl⟩

/-! ## Call and return -/

/-- Settles O32: the call put PC at its own depth, the entry on top of the stack that the return pops. -/
theorem returnUndoesCall : Obligations.ReturnUndoesCall := by
  intro nnn s t u hcall hsp hbelow
  obtain ⟨room, rfl⟩ := exec_call_eq_next hcall
  have hdepth : u.sp.val = s.sp.val + 1 := congrArg Fin.val hsp
  have htop : u.stack[s.sp.val] = s.pc :=
    (hbelow ⟨s.sp.val, room⟩ (Nat.lt_succ_self _)).trans (Vector.getElem_set_self room)
  refine ⟨_, exec_ret_of_pos (by omega), ?_, Fin.ext ?_⟩
  · simpa [hdepth] using htop
  · simp [hdepth]

/-- Settles O29, by whether there is an entry to pop. -/
theorem returnPopsTheStack : Obligations.ReturnPopsTheStack := by
  refine ⟨rfl, fun s => ⟨fun hpos => ?_, fun hempty => ?_⟩⟩
  · exact ⟨_, exec_ret_of_pos hpos, rfl, rfl, rfl, sameBut_pc_stack s _ _ s.stack, fetch_of_pc_gt⟩
  · exact ⟨_, exec_ret_of_empty hempty, rfl⟩

/-- Settles O31, by whether there is room for an entry. -/
theorem callPushesTheReturnAddress : Obligations.CallPushesTheReturnAddress := by
  refine fun nnn s => ⟨fun room => ?_, fun hfull => ?_⟩
  · have hkept (k : Fin 16) (hk : k.val ≠ s.sp.val) : (s.stack.set s.sp.val s.pc room)[k] = s.stack[k] :=
      Vector.getElem_set_ne room k.isLt hk.symm
    exact ⟨_, exec_call_of_room nnn room, rfl, Vector.getElem_set_self room, hkept, zextAddr_toNat nnn,
      sameBut_pc_stack s _ _ _⟩
  · exact ⟨_, exec_call_of_full nnn hfull, rfl⟩

/-! ## Jumps -/

theorem exec_jp (nnn : Addr12) (s : State) : exec (.jp nnn) s = .next (s.setPc (zextAddr nnn)) := rfl

theorem exec_jpV0 (nnn : Addr12) (s : State) :
    exec (.jpV0 nnn) s = .next (s.setPc (zextAddr nnn + zextByte (s.reg 0))) := rfl

/-- The pattern `1NNN` is the packed word of family 1 (R92, R95). -/
theorem or_zextAddr_eq_packNNN (nnn : Addr12) : 0x1000 ||| zextAddr nnn = packNNN 0x1#4 nnn := by
  apply BitVec.eq_of_toNat_eq
  rw [packNNN_toNat, BitVec.toNat_or, zextAddr_toNat]
  exact (Nat.shiftLeft_add_eq_or_of_lt nnn.isLt 1).symm

/-- A jump to the address it was fetched from undoes the advance of PC (R141, R122). -/
theorem exec_jp_advance_self {nnn : Addr12} {s : State} (h : zextAddr nnn = s.pc) :
    exec (.jp nnn) s.advance = .next s := by
  rw [exec_jp, h]
  rfl

/-- Settles O30: the encoding, the effect, a target without room for a word, and the jump to itself. -/
theorem jumpSetsPcExactly : Obligations.JumpSetsPcExactly := by
  refine ⟨fun nnn => ?_, fun nnn s => ?_, fun s hpc => ?_, fun s w nnn hh hf hd hself => ?_⟩
  · rw [or_zextAddr_eq_packNNN]
    exact decodeOfEncodeIsTheInstruction (.jp nnn) rfl
  · exact ⟨_, exec_jp nnn s, zextAddr_toNat nnn, sameBut_setPc s _⟩
  · exact fetch_of_pc_gt (by simp [hpc])
  · rw [step_eq_exec hh hf hd, exec_jp_advance_self hself]

/-- Settles O33: the sum of a 12-bit and an 8-bit number fits PC. -/
theorem jumpWithOffsetAddsV0 : Obligations.JumpWithOffsetAddsV0 := by
  intro nnn s
  exact ⟨_, exec_jpV0 nnn s, zextAddr_add_zextByte_toNat nnn _, sameBut_setPc s _⟩

/-! ## Compare skips -/

/-- Settles O34: each compare skip is `skipIf` on its own condition (R148). -/
theorem compareSkipsAddTwo : Obligations.CompareSkipsAddTwo := by
  intro x y nn s
  refine ⟨⟨s.skipIf (s.reg x == nn), rfl, ?_, sameBut_skipIf s _⟩,
    ⟨s.skipIf (s.reg x != nn), rfl, ?_, sameBut_skipIf s _⟩,
    ⟨s.skipIf (s.reg x == s.reg y), rfl, ?_, sameBut_skipIf s _⟩,
    ⟨s.skipIf (s.reg x != s.reg y), rfl, ?_, sameBut_skipIf s _⟩⟩
  all_goals simp

end Sys2Proof.Machine
end

section
/-! PROOFS. Immediate loads and the register ALU (spec/42_immediate_and_alu.md R158 to R172): the rules of the two
register writes, a result alone or a flag and a result, and what each instruction makes of them. -/

namespace Sys2Proof.Machine

/-! ## Writing a result -/

/-- New register values and a new count of random bytes are within a frame that exempts those that change. -/
theorem sameBut_regs_draws {parts : List Part} (s : State) (v : Vector Byte 16) (n : Nat) (hv : .regs ∈ parts)
    (hn : n = s.draws ∨ .draws ∈ parts) : SameBut parts s { s with v := v, draws := n } where
  regs h := absurd hv h
  index _ := rfl
  pc _ := rfl
  stack _ := ⟨rfl, rfl⟩
  delay _ := rfl
  sound _ := rfl
  memory _ _ := rfl
  screen _ _ _ := rfl
  keypad _ := rfl
  status _ := ⟨rfl, rfl⟩
  draws h := hn.resolve_right h

theorem State.reg_setReg_self (s : State) (x : Reg) (b : Byte) : (s.setReg x b).reg x = b := by
  rw [State.reg_setReg, if_pos rfl]

theorem State.reg_setReg_of_ne (s : State) {x r : Reg} (b : Byte) (h : r ≠ x) : (s.setReg x b).reg r = s.reg r := by
  rw [State.reg_setReg, if_neg h]

/-- The frame of an instruction whose only write is Vx: the other registers, VF among them, and all else stay. -/
theorem setReg_frame (s : State) (x : Reg) (b : Byte) :
    (∀ r, r ≠ x → (s.setReg x b).reg r = s.reg r) ∧ SameBut [.regs] s (s.setReg x b) :=
  ⟨fun _ => s.reg_setReg_of_ne b, sameBut_regs_draws s _ _ List.mem_cons_self (.inl rfl)⟩

/-- Writes to two different registers commute (R20). -/
theorem State.setReg_comm (s : State) {x y : Reg} (a b : Byte) (h : x ≠ y) :
    (s.setReg x a).setReg y b = (s.setReg y b).setReg x a := by
  have hv : (s.v.set x a).set y b = (s.v.set y b).set x a := Vector.set_comm a b (Fin.val_ne_of_ne h)
  simp only [State.setReg, hv]

/-! ## Writing a flag and a result (R160, D5) -/

section

variable (s : State) (x : Reg) (flag result : Byte)

/-- `VF_WRITE_ORDER = FLAG_THEN_RESULT`: a register that is both Vx and VF holds the result (D5, log 5). -/
theorem reg_setFlagAndResult_params (q : Reg) :
    (s.setFlagAndResult params.vfWriteOrder x flag result).reg q =
      if q = x then result else if q = vf then flag else s.reg q :=
  State.reg_setFlagAndResult s x q flag result

/-- The result survives the flag's write, for x = 15 too (D5, log 5). -/
theorem reg_setFlagAndResult_self :
    (s.setFlagAndResult params.vfWriteOrder x flag result).reg x = result := by
  rw [reg_setFlagAndResult_params, if_pos rfl]

theorem reg_setFlagAndResult_vf {x : Reg} (hx : x ≠ 15) :
    (s.setFlagAndResult params.vfWriteOrder x flag result).reg 15 = flag := by
  rw [reg_setFlagAndResult_params, if_neg hx.symm, if_pos rfl]

/-- The frame of a flag-writing instruction: the registers other than Vx and VF, and all else, stay. -/
theorem setFlagAndResult_frame :
    (∀ r, r ≠ x → r ≠ 15 → (s.setFlagAndResult params.vfWriteOrder x flag result).reg r = s.reg r) ∧
      SameBut [.regs] s (s.setFlagAndResult params.vfWriteOrder x flag result) := by
  refine ⟨fun r hrx hr => ?_, sameBut_regs_draws s _ _ List.mem_cons_self (.inl rfl)⟩
  rw [reg_setFlagAndResult_params, if_neg hrx, if_neg hr]

end

/-- Settles O41: the two orders are two writes to different registers, which commute. -/
theorem writeOrderMattersOnlyForVf : Obligations.WriteOrderMattersOnlyForVf := by
  intro s x flag result hx
  exact s.setReg_comm flag result hx.symm

/-! ## Flag values (R172) -/

theorem flagByte_decide (p : Prop) [Decidable p] : flagByte (decide p) = if p then 1 else 0 := by
  simp [flagByte]

/-- A flag that copies bit `k` of a byte, as a number. -/
theorem flagByte_getLsbD_toNat (a : Byte) (k : Nat) : (flagByte (a.getLsbD k)).toNat = a.toNat / 2 ^ k % 2 := by
  have htoNat (b : Bool) : (flagByte b).toNat = b.toNat := by cases b <;> rfl
  rw [htoNat, BitVec.getLsbD, Nat.toNat_testBit]

/-- Bit 0 of the source of a right-shift (R168). -/
theorem shrFlag_toNat (a : Byte) : (shrFlag a).toNat = a.toNat % 2 := by
  have hbit : (shrFlag a).toNat = a.toNat / 2 ^ 0 % 2 := flagByte_getLsbD_toNat a 0
  rwa [pow_zero, Nat.div_one] at hbit

/-- Bit 7 of the source of a left-shift (R170). -/
theorem shlFlag_toNat (a : Byte) : (shlFlag a).toNat = a.toNat / 128 := by
  have hbit : (shlFlag a).toNat = a.toNat / 2 ^ 7 % 2 := flagByte_getLsbD_toNat a 7
  have := a.isLt
  omega

/-! ## Immediates -/

theorem exec_ldImm (x : Reg) (nn : Byte) (s : State) : exec (.ldImm x nn) s = .next (s.setReg x nn) := rfl

/-- The pattern `6XNN` is the packed word of family 6 (R92, R95). -/
theorem or_reg_or_zextByte_eq_packXNN (x : Reg) (nn : Byte) :
    0x6000 ||| BitVec.ofNat 16 (256 * x.val) ||| zextByte nn = packXNN 0x6#4 x nn := by
  apply BitVec.eq_of_toNat_eq
  have hx : (BitVec.ofNat 16 (256 * x.val)).toNat = x.val <<< 8 := by
    rw [BitVec.toNat_ofNat, Nat.shiftLeft_eq]
    omega
  have hnn : (zextByte nn).toNat = nn.toNat := BitVec.toNat_setWidth_of_le (by decide)
  have hfamily : 0x6000 ||| x.val <<< 8 = (6 <<< 4 + x.val) <<< 8 := by
    rw [Nat.shiftLeft_add_eq_or_of_lt (i := 4) x.isLt, Nat.shiftLeft_or_distrib]
    rfl
  rw [packXNN_toNat, BitVec.toNat_or, BitVec.toNat_or, hx, hnn, show (0x6000 : Word).toNat = 0x6000 from rfl, hfamily,
    ← Nat.shiftLeft_add_eq_or_of_lt nn.isLt]
  simp only [Nat.shiftLeft_eq, BitVec.toNat_ofNat]
  omega

/-- Settles O35: the encoding, the effect, and the step, whose fetch bounds the advance of PC. -/
theorem loadImmediateSetsVx : Obligations.LoadImmediateSetsVx := by
  refine ⟨fun x nn => ?_, fun x nn s => ?_, fun x nn s w hh hf hd => ?_⟩
  · rw [or_reg_or_zextByte_eq_packXNN]
    exact decodeOfEncodeIsTheInstruction (.ldImm x nn) rfl
  · exact ⟨_, exec_ldImm x nn s, s.reg_setReg_self x nn, setReg_frame s x nn⟩
  · exact ⟨_, (step_eq_exec hh hf hd).trans (exec_ldImm x nn s.advance), State.reg_setReg_self _ x nn,
      advance_pc_toNat hf⟩

/-- Settles O36: byte addition is addition modulo 256. -/
theorem addImmediateWrapsWithoutFlag : Obligations.AddImmediateWrapsWithoutFlag := by
  intro x nn s
  refine ⟨s.setReg x (s.reg x + nn), rfl, ?_, setReg_frame s x _⟩
  rw [State.reg_setReg_self, BitVec.toNat_add]

/-- Settles O42: a byte AND nn has no bit outside nn. -/
theorem randomAndMasksAFreshByte : Obligations.RandomAndMasksAFreshByte := by
  intro x nn s
  have hx : (s.setReg x (s.rand &&& nn)).consumeRand.reg x = s.rand &&& nn := s.reg_setReg_self x _
  refine ⟨(s.setReg x (s.rand &&& nn)).consumeRand, rfl, hx, ?_, rfl, fun r => s.reg_setReg_of_ne _,
    sameBut_regs_draws s _ _ List.mem_cons_self (.inr (by decide))⟩
  rw [hx, BitVec.and_assoc, BitVec.and_not_self]
  exact BitVec.and_zero

/-! ## The register ALU group -/

/-- Settles O37: the four write Vx alone, and the logic operations are bit by bit. -/
theorem assignAndLogicWriteVxOnly : Obligations.AssignAndLogicWriteVxOnly := by
  intro x y s
  refine ⟨⟨s.setReg x (s.reg y), rfl, s.reg_setReg_self x _, setReg_frame s x _⟩,
    ⟨s.setReg x (s.reg x ||| s.reg y), rfl, fun j _ => ?_, setReg_frame s x _⟩,
    ⟨s.setReg x (s.reg x &&& s.reg y), rfl, fun j _ => ?_, setReg_frame s x _⟩,
    ⟨s.setReg x (s.reg x ^^^ s.reg y), rfl, fun j _ => ?_, setReg_frame s x _⟩⟩
  · rw [State.reg_setReg_self, BitVec.getLsbD_or]
  · rw [State.reg_setReg_self, BitVec.getLsbD_and]
  · rw [State.reg_setReg_self, BitVec.getLsbD_xor]

section

variable (x y : Reg) (s : State)

theorem exec_addReg : exec (.addReg x y) s =
    .next (s.setFlagAndResult params.vfWriteOrder x (addFlag (s.reg x) (s.reg y)) (s.reg x + s.reg y)) := rfl

theorem exec_sub : exec (.sub x y) s =
    .next (s.setFlagAndResult params.vfWriteOrder x (subFlag (s.reg x) (s.reg y)) (s.reg x - s.reg y)) := rfl

theorem exec_subn : exec (.subn x y) s =
    .next (s.setFlagAndResult params.vfWriteOrder x (subFlag (s.reg y) (s.reg x)) (s.reg y - s.reg x)) := rfl

/-- With `SHIFT_SOURCE = X` the source is Vx (D4, log 4). -/
theorem exec_shr : exec (.shr x y) s =
    .next (s.setFlagAndResult params.vfWriteOrder x (shrFlag (s.reg x)) (s.reg x >>> 1)) := rfl

/-- With `SHIFT_SOURCE = X` the source is Vx (D4, log 4). -/
theorem exec_shl : exec (.shl x y) s =
    .next (s.setFlagAndResult params.vfWriteOrder x (shlFlag (s.reg x)) (s.reg x <<< 1)) := rfl

end

/-- Settles O38, from the two writes: the sum modulo 256 and the carry of the exact sum. -/
theorem addSetsCarry : Obligations.AddSetsCarry := by
  intro x y s
  refine ⟨_, exec_addReg x y s, ?_, fun hx => ?_, setFlagAndResult_frame s x _ _⟩
  · rw [reg_setFlagAndResult_self, BitVec.toNat_add]
  · rw [reg_setFlagAndResult_vf s _ _ hx]
    exact flagByte_decide _

/-- Byte subtraction is subtraction modulo 256. -/
theorem toNat_sub_eq_mod (a b : Byte) : (a - b).toNat = (a.toNat + 256 - b.toNat) % 256 := by
  rw [BitVec.toNat_sub]
  omega

/-- Settles O39, from the two writes of each subtraction, the minuend on its own side. -/
theorem subtractionsSetStrictlyGreater : Obligations.SubtractionsSetStrictlyGreater := by
  intro x y s
  refine ⟨⟨_, exec_sub x y s, ?_, fun hx => ?_, setFlagAndResult_frame s x _ _⟩,
    ⟨_, exec_subn x y s, ?_, fun hx => ?_, setFlagAndResult_frame s x _ _⟩⟩
  · rw [reg_setFlagAndResult_self, toNat_sub_eq_mod]
  · rw [reg_setFlagAndResult_vf s _ _ hx]
    exact flagByte_decide _
  · rw [reg_setFlagAndResult_self, toNat_sub_eq_mod]
  · rw [reg_setFlagAndResult_vf s _ _ hx]
    exact flagByte_decide _

/-- Settles O40: a shift by one bit halves or doubles, and the flag is the bit that leaves the byte. -/
theorem shiftsSetTheBitShiftedOut : Obligations.ShiftsSetTheBitShiftedOut := by
  intro x y s
  refine ⟨⟨_, exec_shr x y s, ?_, fun hx => ?_, setFlagAndResult_frame s x _ _⟩,
    ⟨_, exec_shl x y s, ?_, fun hx => ?_, setFlagAndResult_frame s x _ _⟩⟩
  · rw [reg_setFlagAndResult_self, BitVec.toNat_ushiftRight, Nat.shiftRight_one]
  · rw [reg_setFlagAndResult_vf s _ _ hx, shrFlag_toNat]
  · rw [reg_setFlagAndResult_self, BitVec.toNat_shiftLeft, Nat.shiftLeft_eq]
  · rw [reg_setFlagAndResult_vf s _ _ hx, shlFlag_toNat]

end Sys2Proof.Machine
end

section
/-! PROOFS. The index register and the memory transfers (spec/43_index_and_memory.md R190 to R196): what the index
instructions, store-BCD, register-dump and register-load do in a state, inside memory and beyond its end. -/

namespace Sys2Proof.Machine

/-- New values of I, of the registers and of memory are within a frame that exempts those that change. -/
theorem sameBut_index_regs_memory {parts : List Part} (s : State) (w : Word) (v : Vector Byte 16) (m : Memory)
    (hi : .index ∈ parts) (hv : v = s.v ∨ .regs ∈ parts) (hm : m = s.mem ∨ .memory ∈ parts) :
    SameBut parts s { s with i := w, v := v, mem := m } where
  regs h r := congrArg (fun u : Vector Byte 16 => u[r]) (hv.resolve_right h)
  index h := absurd hi h
  pc _ := rfl
  stack _ := ⟨rfl, rfl⟩
  delay _ := rfl
  sound _ := rfl
  memory h a := congrArg (Memory.read · a) (hm.resolve_right h)
  screen _ _ _ := rfl
  keypad _ := rfl
  status _ := ⟨rfl, rfl⟩
  draws _ := rfl

theorem sameBut_setI (s : State) (w : Word) : SameBut [.index] s (s.setI w) :=
  sameBut_index_regs_memory s w s.v s.mem List.mem_cons_self (.inl rfl) (.inl rfl)

/-! ## The index instructions -/

theorem exec_ldI (nnn : Addr12) (s : State) : exec (.ldI nnn) s = .next (s.setI (zextAddr nnn)) := rfl

theorem exec_addIVx (x : Reg) (s : State) : exec (.addIVx x) s = .next (s.setI (s.i + zextByte (s.reg x))) := rfl

theorem exec_ldFVx (x : Reg) (s : State) : exec (.ldFVx x) s = .next (s.setI (zextByte (s.reg x) * 5)) := rfl

theorem zextByte_toNat (b : Byte) : (zextByte b).toNat = b.toNat := BitVec.toNat_setWidth_of_le (by decide)

/-- The address of a glyph does not wrap, for a register above 15 too (R192, D30, log 20). -/
theorem zextByte_mul_five_toNat (b : Byte) : (zextByte b * 5).toNat = 5 * b.toNat := by
  have hfive : (5 : Word).toNat = 5 := rfl
  rw [BitVec.toNat_mul, zextByte_toNat, hfive]
  omega

/-- Settles O43: each sets I alone, and only add-to-index can wrap (D8). -/
theorem indexInstructionsSetI : Obligations.IndexInstructionsSetI := by
  refine fun nnn x s => ⟨⟨_, exec_ldI nnn s, zextAddr_toNat nnn, sameBut_setI s _⟩,
    ⟨_, exec_addIVx x s, ?_, sameBut_setI s _⟩, ⟨_, exec_ldFVx x s, zextByte_mul_five_toNat _, sameBut_setI s _⟩⟩
  rw [State.setI_i, BitVec.toNat_add, zextByte_toNat]

/-! ## store-BCD -/

/-- store-BCD inside memory is a block write of the three digits (R193). -/
theorem exec_ldBVx_of_inside {x : Reg} {s : State} (h : s.i.toNat + 2 < 4096) :
    exec (.ldBVx x) s = .next (s.setMem (Memory.writeBytes s.mem s.i.toNat (bcdDigits (s.reg x)))) := by
  have hstore := (storeBytes_eq_ok (s := s) (base := s.base) (bs := bcdDigits (s.reg x))).2 ⟨.inr h, rfl⟩
  rw [exec, execLdBVx, hstore]
  rfl

/-- store-BCD beyond the end of memory is a bounds violation at its last address (R193). -/
theorem exec_ldBVx_of_outside {x : Reg} {s : State} (h : 4096 ≤ s.i.toNat + 2) :
    exec (.ldBVx x) s =
      .fault (.boundsViolation (.memWrite (s.i.toNat + 2)) (some (encode (.ldBVx x))) s.pc0) := by
  have hstore := (storeBytes_eq_error (s := s) (base := s.base) (bs := bcdDigits (s.reg x))).2
    ⟨⟨Nat.zero_lt_succ _, Nat.lt_succ_of_le h⟩, rfl⟩
  rw [exec, execLdBVx, hstore]
  rfl

/-- The hundreds, tens and units digits, read back as numbers (R193). -/
theorem Memory.read_writeBytes_bcdDigits (m : Memory) (base : Nat) (a : Byte) :
    (Memory.read (Memory.writeBytes m base (bcdDigits a)) base).toNat = a.toNat / 100 ∧
      (Memory.read (Memory.writeBytes m base (bcdDigits a)) (base + 1)).toNat = a.toNat / 10 % 10 ∧
      (Memory.read (Memory.writeBytes m base (bcdDigits a)) (base + 2)).toNat = a.toNat % 10 := by
  have hread (k : Nat) (hk : k < 3) :
      Memory.read (Memory.writeBytes m base (bcdDigits a)) (base + k) = (bcdDigits a)[k]'hk :=
    Memory.read_writeBytes_inside m base hk
  have hdigit {d : Nat} (hd : d ≤ a.toNat) : (BitVec.ofNat 8 d).toNat = d :=
    (BitVec.toNat_ofNat d 8).trans (Nat.mod_eq_of_lt (Nat.lt_of_le_of_lt hd a.isLt))
  refine ⟨?_, ?_, ?_⟩
  · exact (congrArg BitVec.toNat (hread 0 (by decide))).trans (hdigit (by omega))
  · exact (congrArg BitVec.toNat (hread 1 (by decide))).trans (hdigit (by omega))
  · exact (congrArg BitVec.toNat (hread 2 (by decide))).trans (hdigit (by omega))

/-- Settles O44, by whether I + 2 is inside memory. -/
theorem storeBcdWritesThreeDigits : Obligations.StoreBcdWritesThreeDigits := by
  refine fun x s => ⟨fun hin => ?_, fun hout => ⟨_, exec_ldBVx_of_outside hout, rfl⟩⟩
  obtain ⟨hundreds, tens, units⟩ := Memory.read_writeBytes_bcdDigits s.mem s.i.toNat (s.reg x)
  have := (s.reg x).isLt
  refine ⟨_, exec_ldBVx_of_inside hin, ?_, ?_, ?_, ?_,
    fun a ha => Memory.read_writeBytes_outside s.mem (bs := bcdDigits (s.reg x)) ha, sameBut_setMem s _⟩
  all_goals
    simp only [State.setMem_mem, hundreds, tens, units]
    omega

/-! ## register-dump and register-load -/

/-- I does not wrap when a transfer inside memory moves it past its bytes (R194, R195). -/
theorem State.advanceI_i_toNat {s : State} {x : Reg} (h : s.i.toNat + x.val < 4096) :
    (s.advanceI x).i.toNat = s.i.toNat + x.val + 1 := by
  rw [State.advanceI_i, State.base, BitVec.toNat_ofNat]
  omega

theorem State.firstRegs_succ_length (s : State) (x : Reg) : (s.firstRegs (x.val + 1)).length = x.val + 1 :=
  s.firstRegs_length _ (by omega)

/-- register-dump inside memory is a block write of V0..Vx, then the advance of I (R194). -/
theorem exec_ldMemVx_of_inside {x : Reg} {s : State} (h : s.i.toNat + x.val < 4096) :
    exec (.ldMemVx x) s =
      .next ((s.setMem (Memory.writeBytes s.mem s.i.toNat (s.firstRegs (x.val + 1)))).advanceI x) := by
  have hstore := (storeBytes_eq_ok (s := s) (base := s.base) (bs := s.firstRegs (x.val + 1))).2
    ⟨.inr (by rwa [s.firstRegs_succ_length x]), rfl⟩
  rw [exec, execLdMemVx, hstore]
  rfl

/-- register-dump beyond the end of memory is a bounds violation at its last address (R194). -/
theorem exec_ldMemVx_of_outside {x : Reg} {s : State} (h : 4096 ≤ s.i.toNat + x.val) :
    exec (.ldMemVx x) s =
      .fault (.boundsViolation (.memWrite (s.i.toNat + x.val)) (some (encode (.ldMemVx x))) s.pc0) := by
  have hlen := s.firstRegs_succ_length x
  have hstore := (storeBytes_eq_error (s := s) (base := s.base) (bs := s.firstRegs (x.val + 1))).2
    ⟨by rw [hlen]; exact ⟨Nat.zero_lt_succ _, Nat.lt_succ_of_le h⟩, rfl⟩
  rw [exec, execLdMemVx, hstore, hlen]
  rfl

/-- register-load inside memory fills V0..Vx with the bytes at I, then I advances (R195). -/
theorem exec_ldVxMem_of_inside {x : Reg} {s : State} (h : s.i.toNat + x.val < 4096) :
    exec (.ldVxMem x) s =
      .next ((s.loadRegs ((List.range (x.val + 1)).map fun k => Memory.read s.mem (s.i.toNat + k))).advanceI x) := by
  have hload := (loadBytes_eq_ok (s := s) (base := s.base) (count := x.val + 1)).2 ⟨.inr h, rfl⟩
  rw [exec, execLdVxMem, hload]
  rfl

/-- register-load beyond the end of memory is a bounds violation at its last address (R195). -/
theorem exec_ldVxMem_of_outside {x : Reg} {s : State} (h : 4096 ≤ s.i.toNat + x.val) :
    exec (.ldVxMem x) s =
      .fault (.boundsViolation (.memRead (s.i.toNat + x.val)) (some (encode (.ldVxMem x))) s.pc0) := by
  have hload := (loadBytes_eq_error (s := s) (base := s.base) (count := x.val + 1)).2
    ⟨⟨Nat.zero_lt_succ _, Nat.lt_succ_of_le h⟩, rfl⟩
  rw [exec, execLdVxMem, hload]
  rfl

/-- Settles O45, by whether I + x is inside memory. -/
theorem registerDumpStoresAndAdvances : Obligations.RegisterDumpStoresAndAdvances := by
  refine fun x s => ⟨fun hin => ?_, fun hout => ⟨_, exec_ldMemVx_of_outside hout, rfl⟩⟩
  have hlen := s.firstRegs_succ_length x
  refine ⟨_, exec_ldMemVx_of_inside hin, fun r hr => ?_, fun a ha => ?_, State.advanceI_i_toNat hin,
    sameBut_index_regs_memory s _ s.v _ (by decide) (.inl rfl) (.inr List.mem_cons_self)⟩
  · have hk : r.val < (s.firstRegs (x.val + 1)).length := by rw [hlen]; exact Nat.lt_succ_of_le hr
    exact (Memory.read_writeBytes_inside s.mem s.i.toNat hk).trans (s.firstRegs_getElem _ _ hk r.isLt)
  · exact Memory.read_writeBytes_outside s.mem (by omega)

/-- Settles O46, by whether I + x is inside memory. -/
theorem registerLoadFillsAndAdvances : Obligations.RegisterLoadFillsAndAdvances := by
  refine fun x s => ⟨fun hin => ?_, fun hout => ⟨_, exec_ldVxMem_of_outside hout, rfl⟩⟩
  refine ⟨_, exec_ldVxMem_of_inside hin, fun r hr => ?_, fun r hr => ?_, State.advanceI_i_toNat hin,
    sameBut_index_regs_memory s _ _ s.mem (by decide) (.inr List.mem_cons_self) (.inl rfl)⟩
  · have hlt : r.val < x.val + 1 := Nat.lt_succ_of_le hr
    rw [State.reg_advanceI, State.reg_loadRegs, dif_pos (by simpa using hlt), List.getElem_map, List.getElem_range]
  · have hge : x.val + 1 ≤ r.val := hr
    rw [State.reg_advanceI, State.reg_loadRegs, dif_neg (by simpa using hge)]

/-- Settles O47 from O45 and O46: a dump that completes lies inside memory, and so does the load from the same place. -/
theorem loadRestoresWhatDumpStored : Obligations.LoadRestoresWhatDumpStored := by
  intro x s t u v hdump hmem hi hload
  have hin : s.i.toNat + x.val < 4096 := by
    by_contra hout
    rw [exec_ldMemVx_of_outside (Nat.not_lt.1 hout)] at hdump
    cases hdump
  obtain ⟨t', ht, hstored, -, htI, -⟩ := (registerDumpStoresAndAdvances x s).1 hin
  obtain ⟨v', hv, hloaded, -, hvI, -⟩ := (registerLoadFillsAndAdvances x u).1 (hi ▸ hin)
  cases Host.Outcome.next.inj (hdump.symm.trans ht)
  cases Host.Outcome.next.inj (hload.symm.trans hv)
  refine ⟨fun r hr => ?_, htI, hvI⟩
  rw [hloaded r hr, hmem, hi, hstored r hr]

end Sys2Proof.Machine
end

section
/-! PROOFS. The display (spec/44_display.md R210 to R213): clear-screen, and draw-sprite as the toggling of a set of
cells that grows by one sprite pixel at a time. -/

namespace Sys2Proof.Machine

/-- A new framebuffer and new register values are within a frame that exempts those that change. -/
theorem sameBut_screen_regs {parts : List Part} (s : State) (f : Frame) (v : Vector Byte 16) (hf : .screen ∈ parts)
    (hv : v = s.v ∨ .regs ∈ parts) : SameBut parts s { s with fb := f, v := v } where
  regs h r := congrArg (fun u : Vector Byte 16 => u[r]) (hv.resolve_right h)
  index _ := rfl
  pc _ := rfl
  stack _ := ⟨rfl, rfl⟩
  delay _ := rfl
  sound _ := rfl
  memory _ _ := rfl
  screen h := absurd hf h
  keypad _ := rfl
  status _ := ⟨rfl, rfl⟩
  draws _ := rfl

theorem exec_cls (s : State) : exec .cls s = .next (s.setFb clearFrame) := rfl

/-- Settles O48: the new framebuffer is the clear one, and nothing else is written. -/
theorem clearScreenUnlightsEveryCell : Obligations.ClearScreenUnlightsEveryCell :=
  fun s => ⟨_, exec_cls s, litAt_clearFrame, sameBut_screen_regs s _ s.v List.mem_cons_self (.inl rfl)⟩

/-! ## The edge policy (R212) -/

/-- Settles O52: a pixel `CLIP` draws is inside the screen once the start is reduced, so reducing the sum is the same. -/
theorem clipDrawsWhereWrapDoes : Obligations.ClipDrawsWhereWrapDoes := by
  intro vx vy col row c hclip
  dsimp only [spriteCell] at hclip
  obtain ⟨⟨hcol, hrow⟩, hc⟩ := Option.dite_none_right_eq_some.1 hclip
  have col_eq : (vx.toNat + col) % 64 = vx.toNat % 64 + col := by omega
  have row_eq : (vy.toNat + row) % 32 = vy.toNat % 32 + row := by omega
  simp only [spriteCell_wrap, col_eq, row_eq, hc]

/-- The sprite column that falls on screen column `px`, counted around the edge (R212). -/
def spriteCol (vx : Byte) (px : Fin 64) : Nat := (px.val + 64 - vx.toNat % 64) % 64

/-- The sprite row that falls on screen row `py`, counted around the edge (R212). -/
def spriteRow (vy : Byte) (py : Fin 32) : Nat := (py.val + 32 - vy.toNat % 32) % 32

/-- A sprite pixel falls on the one cell at its column and row: a sprite no larger than the screen never meets itself. -/
theorem exists_spriteCell_wrap (vx vy : Byte) {col row : Nat} (hcol : col < 8) (hrow : row < 32) :
    ∃ qx qy, spriteCell .wrap vx vy col row = some (qx, qy) ∧
      ∀ px py, px = qx ∧ py = qy ↔ spriteCol vx px = col ∧ spriteRow vy py = row := by
  refine ⟨_, _, spriteCell_wrap vx vy col row, fun px py => ?_⟩
  simp only [spriteCol, spriteRow, Fin.ext_iff]
  omega

/-! ## The cells drawn so far -/

/-- The sprite `bytes` covers the cell with a set bit that is among its first `k` pixels, row by row and each row from
the left (R211). -/
def coveredBelow (vx vy : Byte) (bytes : Nat → Byte) (k : Nat) (px : Fin 64) (py : Fin 32) : Bool :=
  decide (spriteCol vx px < 8 ∧ 8 * spriteRow vy py + spriteCol vx px < k) &&
    (bytes (spriteRow vy py)).getLsbD (7 - spriteCol vx px)

/-- `a` is what drawing the covered cells, each once, makes of `f`: they are toggled, and there is a collision if one of
them was lit (R211). -/
structure Drawn (f : Frame) (covered : Fin 64 → Fin 32 → Bool) (a : Frame × Bool) : Prop where
  lit : ∀ px py, litAt a.1 px py = (litAt f px py ^^ covered px py)
  hit : a.2 = true ↔ ∃ px py, litAt f px py = true ∧ covered px py = true

/-- Toggling a cell not drawn yet adds it to the covered cells. -/
theorem Drawn.toggle {f : Frame} {c c' : Fin 64 → Fin 32 → Bool} {a : Frame × Bool} {qx : Fin 64} {qy : Fin 32}
    (h : Drawn f c a) (fresh : c qx qy = false) (hc' : ∀ px py, c' px py = (c px py || decide (px = qx ∧ py = qy))) :
    Drawn f c' (toggleCell a.1 qx qy, a.2 || litAt a.1 qx qy) where
  lit px py := by
    rw [litAt_toggleCell, h.lit, hc']
    by_cases hq : px = qx ∧ py = qy
    · obtain ⟨rfl, rfl⟩ := hq
      simp [fresh]
    · simp [hq]
  hit := by
    have hq : litAt a.1 qx qy = litAt f qx qy := by rw [h.lit, fresh, Bool.xor_false]
    rw [Bool.or_eq_true, h.hit, hq]
    constructor
    · rintro (⟨px, py, hlit, hcov⟩ | hlit)
      · exact ⟨px, py, hlit, by simp [hc', hcov]⟩
      · exact ⟨qx, qy, hlit, by simp [hc']⟩
    · rintro ⟨px, py, hlit, hcov⟩
      rw [hc', Bool.or_eq_true, decide_eq_true_iff] at hcov
      rcases hcov with hcov | ⟨rfl, rfl⟩
      · exact .inl ⟨px, py, hlit, hcov⟩
      · exact .inr hlit

section

variable {f : Frame} {a : Frame × Bool} (vx vy : Byte) (bytes : Nat → Byte)

theorem drawn_nothing : Drawn f (coveredBelow vx vy bytes 0) (f, false) where
  lit px py := by simp [coveredBelow]
  hit := by simp [coveredBelow]

/-- The next pixel of the row covers its own cell, if its bit is set, and no other. -/
theorem coveredBelow_succ {row col : Nat} (hcol : col < 8) (px : Fin 64) (py : Fin 32) :
    coveredBelow vx vy bytes (8 * row + col + 1) px py =
      (coveredBelow vx vy bytes (8 * row + col) px py ||
        decide (spriteCol vx px = col ∧ spriteRow vy py = row) && (bytes row).getLsbD (7 - col)) := by
  unfold coveredBelow
  by_cases here : spriteCol vx px = col ∧ spriteRow vy py = row
  · simp [here, hcol]
  · have same : spriteCol vx px < 8 ∧ 8 * spriteRow vy py + spriteCol vx px < 8 * row + col + 1 ↔
        spriteCol vx px < 8 ∧ 8 * spriteRow vy py + spriteCol vx px < 8 * row + col := by omega
    rw [Bool.decide_congr same]
    simp [here]

theorem drawn_drawPixel {row col : Nat} (hcol : col < 8) (hrow : row < 32)
    (h : Drawn f (coveredBelow vx vy bytes (8 * row + col)) a) :
    Drawn f (coveredBelow vx vy bytes (8 * row + col + 1)) (drawPixel .wrap vx vy row (bytes row) a col) := by
  obtain ⟨qx, qy, hcell, hq⟩ := exists_spriteCell_wrap vx vy hcol hrow
  cases hbit : (bytes row).getLsbD (7 - col) with
  | true =>
    rw [drawPixel_set hbit hcell]
    obtain ⟨hqx, hqy⟩ := (hq qx qy).1 ⟨rfl, rfl⟩
    refine h.toggle (by simp [coveredBelow, hqx, hqy]) fun px py => ?_
    rw [coveredBelow_succ vx vy bytes hcol, hbit, Bool.and_true, Bool.decide_congr (hq px py)]
  | false =>
    have same : coveredBelow vx vy bytes (8 * row + col + 1) = coveredBelow vx vy bytes (8 * row + col) := by
      funext px py
      rw [coveredBelow_succ vx vy bytes hcol, hbit, Bool.and_false, Bool.or_false]
    rw [drawPixel_clear hbit, same]
    exact h

theorem drawn_foldl_drawPixel {row : Nat} (hrow : row < 32) (h : Drawn f (coveredBelow vx vy bytes (8 * row)) a)
    {cols : Nat} (hcols : cols ≤ 8) :
    Drawn f (coveredBelow vx vy bytes (8 * row + cols))
      ((List.range cols).foldl (drawPixel .wrap vx vy row (bytes row)) a) := by
  induction cols with
  | zero => exact h
  | succ col ih =>
    rw [List.range_succ, List.foldl_append]
    exact drawn_drawPixel vx vy bytes hcols hrow (ih (Nat.le_of_lt hcols))

/-- Rows `row` to `row + count - 1` of the sprite, drawn after the rows above them. -/
theorem drawn_drawRows {row count : Nat} (hrows : row + count ≤ 32)
    (h : Drawn f (coveredBelow vx vy bytes (8 * row)) a) :
    Drawn f (coveredBelow vx vy bytes (8 * (row + count)))
      (drawRows .wrap vx vy row ((List.range' row count).map bytes) a) := by
  induction count generalizing row a with
  | zero => exact h
  | succ count ih =>
    have reorder : row + (count + 1) = row + 1 + count := by omega
    rw [List.range'_succ, List.map_cons, drawRows, reorder]
    exact ih (by omega) (drawn_foldl_drawPixel vx vy bytes (by omega) h le_rfl)

end

/-! ## draw-sprite -/

/-- What a draw of `n` rows makes of the framebuffer, and whether it collides (R211, R212 with `WRAP`). -/
def State.drawSprite (s : State) (x y : Reg) (n : Nat) : Frame × Bool :=
  drawRows .wrap (s.reg x) (s.reg y) 0 ((List.range n).map fun k => Memory.read s.mem (s.i.toNat + k)) (s.fb, false)

/-- draw-sprite inside memory, or of no rows, replaces the framebuffer and writes VF (R211, D29). -/
theorem exec_drw_of_inside (x y : Reg) {n : Nat} {s : State} (h : n = 0 ∨ s.i.toNat + n ≤ 4096) :
    exec (.drw x y n) s =
      .next ((s.setFb (s.drawSprite x y n).1).setReg 15 (flagByte (s.drawSprite x y n).2)) := by
  have hload := (loadBytes_eq_ok (s := s) (base := s.base) (count := n)).2 ⟨h, rfl⟩
  rw [exec, execDrw, hload]
  rfl

/-- draw-sprite beyond the end of memory is a bounds violation at its last address (R211). -/
theorem exec_drw_of_outside (x y : Reg) {n : Nat} {s : State} (hn : 0 < n) (h : 4096 < s.i.toNat + n) :
    exec (.drw x y n) s =
      .fault (.boundsViolation (.memRead (s.i.toNat + n - 1)) (some (encode (.drw x y n))) s.pc0) := by
  have hload := (loadBytes_eq_error (s := s) (base := s.base) (count := n)).2 ⟨⟨hn, h⟩, rfl⟩
  rw [exec, execDrw, hload]
  rfl

/-- Settles O50: the block read that fails names its last address. -/
theorem drawOutsideMemoryIsFatal : Obligations.DrawOutsideMemoryIsFatal :=
  fun x y _ _ hn hout => ⟨_, exec_drw_of_outside x y hn hout, rfl⟩

/-- A draw that completes found its sprite inside memory, or had no rows (R211). -/
theorem inside_of_exec_drw_eq_next {x y : Reg} {n : Nat} {s t : State} (h : exec (.drw x y n) s = .next t) :
    n = 0 ∨ s.i.toNat + n ≤ 4096 := by
  by_contra hout
  rw [exec_drw_of_outside x y (by omega) (by omega)] at h
  cases h

/-- All pixels of the sprite drawn, the cells covered are those the sprite in memory covers (R211, R212). -/
theorem coveredBelow_eq_spriteCovers (s : State) (x y : Reg) (n : Nat) :
    coveredBelow (s.reg x) (s.reg y) (fun k => Memory.read s.mem (s.i.toNat + k)) (8 * n) = spriteCovers s x y n := by
  funext px py
  have rows : spriteCol (s.reg x) px < 8 ∧ 8 * spriteRow (s.reg y) py + spriteCol (s.reg x) px < 8 * n ↔
      spriteCol (s.reg x) px < 8 ∧ spriteRow (s.reg y) py < n := by omega
  rw [coveredBelow, Bool.decide_congr rows]
  rfl

/-- A draw toggles the cells its sprite covers, each once (R211): 16 rows fit a screen of 32. -/
theorem drawn_drawSprite (s : State) (x y : Reg) {n : Nat} (hn : n < 16) :
    Drawn s.fb (spriteCovers s x y n) (s.drawSprite x y n) := by
  have h := drawn_drawRows (s.reg x) (s.reg y) (fun k => Memory.read s.mem (s.i.toNat + k)) (row := 0) (count := n)
    (by omega) (drawn_nothing (f := s.fb) _ _ _)
  rwa [Nat.zero_add, coveredBelow_eq_spriteCovers, ← List.range_eq_range'] at h

/-- Settles O49: VF holds the collision of the cells drawn, and is written after the coordinates are read. -/
theorem drawTogglesTheCoveredCells : Obligations.DrawTogglesTheCoveredCells := by
  intro x y n s wf hin
  have drawn := drawn_drawSprite s x y (of_decide_eq_true wf)
  refine ⟨_, exec_drw_of_inside x y hin, drawn.lit, fun collision => ?_, fun unlit => ?_, fun r hr => ?_,
    sameBut_screen_regs s _ _ (by decide) (.inr List.mem_cons_self)⟩
  · rw [State.reg_setReg_self, drawn.hit.2 collision]
    rfl
  · have hit : (s.drawSprite x y n).2 = false := by
      rw [← Bool.not_eq_true, drawn.hit]
      rintro ⟨px, py, hlit, hcov⟩
      rw [unlit px py hlit] at hcov
      cases hcov
    rw [State.reg_setReg_self, hit]
    rfl
  · rw [State.reg_setReg_of_ne _ _ hr, State.reg_setFb]

/-- A sprite covers the same cells in two states that agree on its coordinates, on I and on memory (R211). -/
theorem spriteCovers_congr {s t : State} {x y : Reg} (hx : t.reg x = s.reg x) (hy : t.reg y = s.reg y) (hi : t.i = s.i)
    (hm : ∀ a, Memory.read t.mem a = Memory.read s.mem a) (n : Nat) : spriteCovers t x y n = spriteCovers s x y n := by
  funext px py
  simp only [spriteCovers, hx, hy, hi, hm]

/-- Settles O51 from O49: both draws cover the same cells, so each is toggled twice, and a cell the first lit is one the
second finds lit. -/
theorem drawTwiceRestoresTheScreen : Obligations.DrawTwiceRestoresTheScreen := by
  intro x y n s t u wf hx hy hfirst hsecond
  obtain ⟨t', ht, litT, -, -, regsT, frame⟩ :=
    drawTogglesTheCoveredCells x y n s wf (inside_of_exec_drw_eq_next hfirst)
  obtain ⟨u', hu, litU, collision, -⟩ := drawTogglesTheCoveredCells x y n t wf (inside_of_exec_drw_eq_next hsecond)
  cases Host.Outcome.next.inj (hfirst.symm.trans ht)
  cases Host.Outcome.next.inj (hsecond.symm.trans hu)
  have same : spriteCovers t x y n = spriteCovers s x y n :=
    spriteCovers_congr (regsT x hx) (regsT y hy) (frame.index (by decide)) (frame.memory (by decide)) n
  constructor
  · refine frame_ext fun px py => ?_
    rw [litU, litT, same, Bool.xor_assoc, Bool.xor_self, Bool.xor_false]
  · rintro ⟨px, py, hunlit, hlit⟩
    have covered : spriteCovers s x y n px py = true := by rwa [litT, hunlit, Bool.false_xor] at hlit
    exact collision ⟨px, py, hlit, by rw [same, covered]⟩

end Sys2Proof.Machine
end

section
/-! PROOFS. The keypad and the timers (spec/45_keypad_and_timers.md R230 to R235): which key a skip tests, which key
await-key reports and how it waits, and the three moves of a byte between a register and a timer. -/

namespace Sys2Proof.Machine

/-! ## Key skips -/

/-- With a key number below 16, skip-if-key-pressed skips on that key (R230). -/
theorem exec_skp_of_lt {x : Reg} {s : State} (h : (s.reg x).toNat < 16) :
    exec (.skp x) s = .next (s.skipIf (s.key.getLsbD (s.reg x).toNat)) := by
  rw [exec, execSkp, params, keyOperand_of_lt h]
  rfl

/-- With a key number below 16, skip-if-key-not-pressed skips unless that key is pressed (R231). -/
theorem exec_sknp_of_lt {x : Reg} {s : State} (h : (s.reg x).toNat < 16) :
    exec (.sknp x) s = .next (s.skipIf (!s.key.getLsbD (s.reg x).toNat)) := by
  rw [exec, execSknp, params, keyOperand_of_lt h]
  rfl

/-- A key number above 15 is a bounds violation of skip-if-key-pressed (R230, D10). -/
theorem exec_skp_of_ge {x : Reg} {s : State} (h : 16 ≤ (s.reg x).toNat) :
    exec (.skp x) s = .fault (.boundsViolation (.keyIndex (s.reg x)) (some (encode (.skp x))) s.pc0) := by
  rw [exec, execSkp, params, keyOperand_of_ge h]
  rfl

/-- A key number above 15 is a bounds violation of skip-if-key-not-pressed (R231, D10). -/
theorem exec_sknp_of_ge {x : Reg} {s : State} (h : 16 ≤ (s.reg x).toNat) :
    exec (.sknp x) s = .fault (.boundsViolation (.keyIndex (s.reg x)) (some (encode (.sknp x))) s.pc0) := by
  rw [exec, execSknp, params, keyOperand_of_ge h]
  rfl

/-- Settles O53, by whether Vx is a key number; the second skip is the first on the negated condition. -/
theorem keySkipsTestTheNamedKey : Obligations.KeySkipsTestTheNamedKey := by
  refine fun x s => ⟨fun hkey => ⟨?pressed, ?notPressed⟩, fun hout => ?fault⟩
  case pressed => exact ⟨_, exec_skp_of_lt hkey, State.skipIf_pc s _, sameBut_skipIf s _⟩
  case notPressed =>
    refine ⟨_, exec_sknp_of_lt hkey, ?_, sameBut_skipIf s _⟩
    cases hbit : s.key.getLsbD (s.reg x).toNat <;> rfl
  case fault => exact ⟨⟨_, exec_skp_of_ge hout, rfl⟩, ⟨_, exec_sknp_of_ge hout, rfl⟩⟩

/-! ## await-key -/

/-- await-key reports the pressed key below which none is pressed (R232, D11): the search runs upwards from key 0. -/
theorem lowestKey_eq_some {s : State} {k : Fin 16} :
    s.lowestKey = some k ↔ s.pressed k = true ∧ ∀ j, j < k → s.pressed j = false := by
  simp only [State.lowestKey, List.find?_eq_some_iff_getElem, List.getElem_finRange, List.length_finRange,
    Bool.not_eq_true']
  refine and_congr_right fun _ => ⟨?_, fun hbelow => ?_⟩
  · rintro ⟨i, hi, rfl, hbelow⟩ j hj
    exact hbelow j.val hj
  · exact ⟨k.val, k.isLt, rfl, fun j hj => hbelow ⟨j, hj.trans k.isLt⟩ hj⟩

/-- With a key to report, await-key writes its number to Vx (R232). -/
theorem exec_ldVxK_of_key {x : Reg} {s : State} {k : Fin 16} (h : s.lowestKey = some k) :
    exec (.ldVxK x) s = .next (s.setReg x (BitVec.ofNat 8 k.val)) := by
  rw [exec, execLdVxK, h]

/-- With no key to report, await-key puts PC back to its own address (R232). -/
theorem exec_ldVxK_of_no_key {x : Reg} {s : State} (h : s.lowestKey = none) :
    exec (.ldVxK x) s = .next (s.setPc s.pc0) := by
  rw [exec, execLdVxK, h]

/-- Settles O54, by what the search for the lowest pressed key answers. -/
theorem awaitKeyReportsTheLowestKey : Obligations.AwaitKeyReportsTheLowestKey := by
  refine fun x s => ⟨fun k hk hbelow => ?_, fun hnone => ?_⟩
  · obtain ⟨others, frame⟩ := setReg_frame s x (BitVec.ofNat 8 k.val)
    refine ⟨_, exec_ldVxK_of_key (lowestKey_eq_some.2 ⟨hk, hbelow⟩), ?_, others, frame⟩
    rw [State.reg_setReg_self, BitVec.toNat_ofNat]
    omega
  · exact ⟨_, exec_ldVxK_of_no_key (lowestKey_eq_none.2 hnone), rfl, sameBut_setPc s _⟩

/-- Settles O55: the retreat of PC undoes the advance that came before it, and the keypad is the same in between. -/
theorem awaitKeyStepWaits : Obligations.AwaitKeyStepWaits := by
  intro s w x hh hf hd hnone
  have hkey : s.advance.lowestKey = none := lowestKey_eq_none.2 hnone
  rw [step_eq_exec hh hf hd, exec_ldVxK_of_no_key hkey, advance_pc0]
  rfl

/-! ## Timers -/

/-- New timer values are within a frame that exempts those that change. -/
theorem sameBut_timers {parts : List Part} (s : State) (dt st : Byte) (hd : dt = s.dt ∨ .delay ∈ parts)
    (hs : st = s.st ∨ .sound ∈ parts) : SameBut parts s { s with dt := dt, st := st } where
  regs _ _ := rfl
  index _ := rfl
  pc _ := rfl
  stack _ := ⟨rfl, rfl⟩
  delay h := hd.resolve_right h
  sound h := hs.resolve_right h
  memory _ _ := rfl
  screen _ _ _ := rfl
  keypad _ := rfl
  status _ := ⟨rfl, rfl⟩
  draws _ := rfl

theorem exec_ldVxDt (x : Reg) (s : State) : exec (.ldVxDt x) s = .next (s.setReg x s.dt) := rfl

theorem exec_ldDtVx (x : Reg) (s : State) : exec (.ldDtVx x) s = .next (s.setDt (s.reg x)) := rfl

theorem exec_ldStVx (x : Reg) (s : State) : exec (.ldStVx x) s = .next (s.setSt (s.reg x)) := rfl

/-- Settles O56: each is one write, of a register or of a timer. -/
theorem timerInstructionsMoveOneByte : Obligations.TimerInstructionsMoveOneByte := by
  intro x s
  obtain ⟨others, frame⟩ := setReg_frame s x s.dt
  exact ⟨⟨_, exec_ldVxDt x s, State.reg_setReg_self s x _, others, frame⟩,
    ⟨_, exec_ldDtVx x s, rfl, sameBut_timers s _ s.st (.inr List.mem_cons_self) (.inl rfl)⟩,
    ⟨_, exec_ldStVx x s, rfl, sameBut_timers s s.dt _ (.inl rfl) (.inr List.mem_cons_self)⟩⟩

end Sys2Proof.Machine
end

section
/-! PROOFS. Fatal conditions and the events between steps (spec/60_exceptions.md): which steps are fatal and what the
record of each holds (R251, R252, R255), the refused image (R253), ticks and key changes (R262, R264). -/

namespace Sys2Proof.Machine

/-! ## Where an instruction faults (R252) -/

/-- An instruction in a state agrees with the list of R252: with a listed cause it raises that bounds violation, and
with none it completes. -/
def FaultsAsListed (i : Instr) (s : State) : Prop :=
  (∀ c, boundsCauseOf i s = some c → exec i s = .fault (.boundsViolation c (some (encode i)) s.pc0)) ∧
    (boundsCauseOf i s = none → ∃ t, exec i s = .next t)

/-- An instruction with one raising site: it faults under the site's condition `p` and completes outside it. -/
theorem faultsAsListed_of_site {i : Instr} {s : State} {p : Prop} [Decidable p] {cause : BoundsCause}
    (hsite : boundsCauseOf i s = if p then some cause else none)
    (hfault : p → exec i s = .fault (.boundsViolation cause (some (encode i)) s.pc0))
    (hnext : ¬p → ∃ t, exec i s = .next t) : FaultsAsListed i s := by
  rw [FaultsAsListed, hsite]
  by_cases hp : p
  · rw [if_pos hp]
    refine ⟨?_, nofun⟩
    rintro c ⟨⟩
    exact hfault hp
  · rw [if_neg hp]
    exact ⟨nofun, fun _ => hnext hp⟩

/-- An instruction without a raising site completes. -/
theorem faultsAsListed_of_next {i : Instr} {s t : State} (hnone : boundsCauseOf i s = none)
    (hnext : exec i s = .next t) : FaultsAsListed i s :=
  faultsAsListed_of_site (p := False) (cause := .fetch) hnone False.elim fun _ => ⟨t, hnext⟩

/-- await-key has no raising site: it writes a key's number or waits (R232). -/
theorem exists_exec_ldVxK_eq_next (x : Reg) (s : State) : ∃ t, exec (.ldVxK x) s = .next t := by
  cases hkey : s.lowestKey with
  | none => exact ⟨_, exec_ldVxK_of_no_key hkey⟩
  | some k => exact ⟨_, exec_ldVxK_of_key hkey⟩

/-- Settles O10: site by site for the instructions R252 lists, and the others answer a next state outright. -/
theorem instructionsFaultExactlyWhereListed : Obligations.InstructionsFaultExactlyWhereListed := by
  intro i s
  change FaultsAsListed i s
  cases i
  case ret =>
    exact faultsAsListed_of_site rfl exec_ret_of_empty fun h => ⟨_, exec_ret_of_pos (Nat.pos_of_ne_zero h)⟩
  case call nnn =>
    exact faultsAsListed_of_site rfl (exec_call_of_full nnn) fun h => ⟨_, exec_call_of_room nnn (by omega)⟩
  case drw x y n =>
    exact faultsAsListed_of_site rfl (fun h => exec_drw_of_outside x y h.1 (by omega))
      fun h => ⟨_, exec_drw_of_inside x y (by omega)⟩
  case ldBVx x =>
    exact faultsAsListed_of_site rfl exec_ldBVx_of_outside fun h => ⟨_, exec_ldBVx_of_inside (Nat.lt_of_not_le h)⟩
  case ldMemVx x =>
    exact faultsAsListed_of_site rfl exec_ldMemVx_of_outside fun h => ⟨_, exec_ldMemVx_of_inside (Nat.lt_of_not_le h)⟩
  case ldVxMem x =>
    exact faultsAsListed_of_site rfl exec_ldVxMem_of_outside fun h => ⟨_, exec_ldVxMem_of_inside (Nat.lt_of_not_le h)⟩
  case skp x =>
    exact faultsAsListed_of_site rfl exec_skp_of_ge fun h => ⟨_, exec_skp_of_lt (by omega)⟩
  case sknp x =>
    exact faultsAsListed_of_site rfl exec_sknp_of_ge fun h => ⟨_, exec_sknp_of_lt (by omega)⟩
  case ldVxK x =>
    obtain ⟨t, ht⟩ := exists_exec_ldVxK_eq_next x s
    exact faultsAsListed_of_next rfl ht
  all_goals exact faultsAsListed_of_next rfl rfl

/-- An instruction that faults raises the bounds violation the list gives it. -/
theorem exec_eq_fault {i : Instr} {s : State} {r : Fault} (h : exec i s = .fault r) :
    ∃ c, boundsCauseOf i s = some c ∧ r = .boundsViolation c (some (encode i)) s.pc0 := by
  obtain ⟨faults, completes⟩ := instructionsFaultExactlyWhereListed i s
  cases hc : boundsCauseOf i s with
  | some c => exact ⟨c, rfl, Host.Outcome.fault.inj (h.symm.trans (faults c hc))⟩
  | none =>
    obtain ⟨t, ht⟩ := completes hc
    cases h.symm.trans ht

/-! ## Fatal steps (R251, R255) -/

/-- A running machine that fetched an unknown word raises it, with the address it was fetched from (R123, R251). -/
theorem step_of_unknownInstruction {s : State} {w : Word} (hh : s.halt = false) (hf : fetch s = .ok w)
    (hd : decode w = .unknownInstruction w) : step s = .fault (.unknownInstruction w s.pc) := by
  simp [step, hh, hf, hd, raiseFatal]

/-- Settles O8: by O5 a word that no row matches decodes to itself, unknown. -/
theorem unknownWordIsFatal : Obligations.UnknownWordIsFatal := by
  intro s w hh hf hrows
  obtain ⟨-, unknown_iff, -⟩ := decodeSelectsTheOneMatchingRow w
  exact step_of_unknownInstruction hh hf (unknown_iff.2 hrows)

/-- A word the decoder does not know is the word it reports. -/
theorem eq_of_decode_unknownInstruction {w u : Word} (h : decode w = .unknownInstruction u) : u = w := by
  obtain ⟨i, hi⟩ | hw := decode_instr_or_unknown w
  · cases hi.symm.trans h
  · exact Decoded.unknownInstruction.inj (h.symm.trans hw)

/-- The record of a fatal step holds PC, and the word that the fetch gave, if any (R255): an instruction's record holds
its encoding, which is the word it was decoded from. -/
theorem record_of_step_eq_fault {s : State} {r : Fault} (h : step s = .fault r) :
    r.pc0 = s.pc ∧ r.word = (fetch s).toOption := by
  obtain ⟨-, ⟨c, hf, rfl⟩ | ⟨w, hf, u, hd, rfl⟩ | ⟨w, i, hf, hd, he⟩⟩ := step_eq_fault h
  · exact ⟨rfl, by rw [hf]; rfl⟩
  · rw [hf, eq_of_decode_unknownInstruction hd]
    exact ⟨rfl, rfl⟩
  · obtain ⟨c, -, rfl⟩ := exec_eq_fault he
    obtain ⟨-, henc⟩ := encodeOfDecodeIsTheWord w i hd
    rw [hf, henc, advance_pc0]
    exact ⟨rfl, rfl⟩

/-- Settles O11, by what the fetch answered. -/
theorem faultRecordNamesAddressAndWord : Obligations.FaultRecordNamesAddressAndWord := by
  intro s r h
  obtain ⟨hpc, hword⟩ := record_of_step_eq_fault h
  refine ⟨hpc, fun w hf => ?_, fun ⟨c, hf⟩ => ?_⟩
  · rw [hword, hf]
    rfl
  · rw [hword, hf]
    rfl

/-! ## Events between steps -/

/-- A tick takes one from a timer, and nothing from 0 (R262). -/
theorem tickTimer_toNat (b : Byte) : (tickTimer b).toNat = b.toNat - 1 := by
  unfold tickTimer
  split
  next hpos => exact BitVec.toNat_sub_of_le (BitVec.le_def.2 hpos)
  next hzero => omega

/-- Settles O24: each timer takes its own share of the tick. -/
theorem tickCountsBothTimersDown : Obligations.TickCountsBothTimersDown :=
  fun s => ⟨tickTimer_toNat s.dt, tickTimer_toNat s.st,
    sameBut_timers s _ _ (.inr List.mem_cons_self) (.inr (List.mem_cons_of_mem _ List.mem_cons_self))⟩

/-- New key flags are within the frame that exempts the keypad. -/
theorem sameBut_setKeys (s : State) (k : Keys) : SameBut [.keypad] s (setKeys k s) where
  regs _ _ := rfl
  index _ := rfl
  pc _ := rfl
  stack _ := ⟨rfl, rfl⟩
  delay _ := rfl
  sound _ := rfl
  memory _ _ := rfl
  screen _ _ _ := rfl
  keypad h := absurd List.mem_cons_self h
  status _ := ⟨rfl, rfl⟩
  draws _ := rfl

/-- Settles O25: the flags are the bits of the word set. -/
theorem setKeysSetsTheFlagsOnly : Obligations.SetKeysSetsTheFlagsOnly :=
  fun s k => ⟨fun _ => rfl, sameBut_setKeys s k⟩

/-- The kind of a step's fault is 1 or 2: 3 is the loader's (R254). -/
theorem Fault.kind_ne_loadSizeViolation (r : Fault) : r.kind ≠ 3 := by
  cases r with
  | unknownInstruction w p => simp [Fault.kind]
  | boundsViolation c w p => simp [Fault.kind]

/-- Settles O27: a load that succeeds had an image that fits, so an oversize one was refused. -/
theorem oversizeImageIsRejected : Obligations.OversizeImageIsRejected := by
  intro s t bytes hsize h
  refine ⟨?_, fun _ r _ => r.kind_ne_loadSizeViolation⟩
  cases h with
  | loaded hload =>
    obtain ⟨hfits, -⟩ := loadImage_eq_ok hload
    omega
  | loadRefused _ => rfl

end Sys2Proof.Machine
end

section
/-! PROOFS. Reset and loading (spec/70_reset_and_hazards.md): where an image goes and when it is refused (R293), and the
first fetch after a reset and a load (R291). -/

namespace Sys2Proof.Machine

/-! ## Loading an image -/

/-- An image that fits is written to 0x200 and up (R293). -/
theorem loadImage_of_fits {bytes : List Byte} {s : State} (h : bytes.length ≤ 3584) :
    loadImage bytes s = .ok (s.setMem (Memory.writeBytes s.mem 0x200 bytes)) :=
  if_pos (decide_eq_true h)

/-- An image that does not fit is refused (R253, R293). -/
theorem loadImage_of_oversize {bytes : List Byte} {s : State} (h : 3584 < bytes.length) :
    loadImage bytes s = .error .loadSizeViolation :=
  if_neg fun hfits => Nat.not_le_of_lt h (of_decide_eq_true hfits)

/-- An image written over the reset contents reads back from 0x200, and as 0 where it has no byte (R40, R293). -/
theorem Memory.read_writeBytes_programStart (bytes : List Byte) (k : Nat) :
    Memory.read (Memory.writeBytes [] 0x200 bytes) (0x200 + k) = bytes.getD k 0 := by
  by_cases hk : k < bytes.length
  · rw [Memory.read_writeBytes_inside _ _ hk, List.getD_eq_getElem _ _ hk]
  · rw [Memory.read_writeBytes_outside _ (by omega), List.getD_eq_default _ _ (by omega)]
    exact unlisted_of_ge (by omega)

/-! ## The first fetch -/

section
variable {s t : State} {bytes : List Byte}

/-- After a reset and a load the machine runs, with PC at 0x200 and an empty stack (R291). -/
theorem status_of_loadImage_resetCore (h : loadImage bytes (resetCore s) = .ok t) :
    t.halt = false ∧ t.pc = 0x0200 ∧ t.sp = 0 := by
  obtain ⟨-, rfl⟩ := loadImage_eq_ok h
  exact ⟨rfl, rfl, rfl⟩

/-- The first fetch after a reset and a load reads the image's first two bytes (R66, R291). -/
theorem fetch_of_loadImage_resetCore (h : loadImage bytes (resetCore s) = .ok t) :
    fetch t = .ok (wordOfBytes (bytes.getD 0 0) (bytes.getD 1 0)) := by
  obtain ⟨-, rfl⟩ := loadImage_eq_ok h
  rw [← Memory.read_writeBytes_programStart bytes 0, ← Memory.read_writeBytes_programStart bytes 1]
  exact fetch_eq_ok.2 ⟨(by decide : (0x0200#16).toNat + 1 < 4096), rfl⟩

end

/-- Settles O26: the block write places the image; without one, the first word is 0x0000, which no row matches. -/
theorem loadPlacesTheImage : Obligations.LoadPlacesTheImage := by
  intro s bytes
  refine ⟨fun hfits => ?_, loadImage_of_oversize, ?_, fun _ => rfl⟩
  · exact ⟨_, loadImage_of_fits hfits, fun _ => Memory.read_writeBytes_inside s.mem 0x200,
      fun _ => Memory.read_writeBytes_outside s.mem, sameBut_setMem s _⟩
  · have hload := loadImage_of_fits (bytes := []) (s := resetCore s) (Nat.zero_le _)
    obtain ⟨hrun, -, -⟩ := status_of_loadImage_resetCore hload
    have hdecode : decode (wordOfBytes 0x00 0x00) = .unknownInstruction (wordOfBytes 0x00 0x00) := rfl
    exact ⟨_, hload, step_of_unknownInstruction hrun (fetch_of_loadImage_resetCore hload) hdecode⟩

/-- Settles O28: a return fetched first finds the stack that the reset emptied. -/
theorem firstFetchIsAtProgramStart : Obligations.FirstFetchIsAtProgramStart := by
  intro s t bytes hload
  obtain ⟨hrun, hpc, hsp⟩ := status_of_loadImage_resetCore hload
  have hfetch := fetch_of_loadImage_resetCore hload
  refine ⟨hpc, hsp, hfetch, fun hhi hlo => ?_⟩
  rw [hhi, hlo] at hfetch
  have hempty : t.advance.sp.val = 0 := congrArg Fin.val hsp
  refine ⟨_, (step_eq_exec hrun hfetch rfl).trans (exec_ret_of_empty hempty), rfl, ?_⟩
  exact (advance_pc0 t).trans hpc

end Sys2Proof.Machine
end
